-- ==== Sys2Proof/Word.lean ====
section
/-! DEFINITION. The widths of the block's words (00_scope.md R7, R9, R10). -/

namespace Sys2Proof

/-- A buffer byte (20_memory.md R49). -/
abbrev Byte := BitVec 8

/-- An offset, index, step or stack-pointer register (00_scope.md R7). -/
abbrev Half := BitVec 16

/-- The status word, a pointer, counter, PC or stack-base register, a command word (R7, R66). -/
abbrev Word32 := BitVec 32

/-- A general register, the data input and the data output (R7, R64). -/
abbrev Word64 := BitVec 64

end Sys2Proof
end

