-- ==== Sys2Proof/Syntax.lean ====
section
/-! DEFINITION. The commands of the block: one constructor per row of the opcode map (30_encoding.md R72).
A command's value operand is the data input, which is no part of the command word (R71). -/

namespace Sys2Proof

/-- A general register (10_state.md R38); index i names Ri (R39). -/
inductive Reg where
  | r0
  | r1
  | r2
  | r3
deriving DecidableEq, Repr

/-- The special-purpose registers, in the order of their numbers F = 0 to 14 (10_state.md R41). -/
inductive Spr where
  | ptr0
  | ptr1
  | ofs0
  | ofs1
  | ix0
  | ix1
  | ixs0
  | ixs1
  | cnt0
  | cnt1
  | cnts0
  | cnts1
  | pc
  | sb
  | sp
deriving DecidableEq, Repr

/-- The 71 commands (30_encoding.md R72). `ci`, `w` and `f` are the command word's fields CI, W and F
(R68 to R70); `ci = 3` and `f > 14` are the values the spec calls illegal. -/
inductive Instr where
  | add (ra rb : Reg) (ci : BitVec 2)
  | sub (ra rb : Reg) (ci : BitVec 2)
  | and (ra rb : Reg)
  | or (ra rb : Reg)
  | xor (ra rb : Reg)
  | cmp (ra rb : Reg)
  | shl (ra : Reg)
  | shr (ra : Reg)
  | sar (ra : Reg)
  | muls (ra rb : Reg)
  | divs (ra rb : Reg)
  | sext (ra : Reg) (w : BitVec 2)
  | setu8 (ra : Reg)
  | setu16 (ra : Reg)
  | setu32 (ra : Reg)
  | setu64 (ra : Reg)
  | seti8 (ra : Reg)
  | seti16 (ra : Reg)
  | seti32 (ra : Reg)
  | seti64 (ra : Reg)
  | getu8 (ra : Reg)
  | getu16 (ra : Reg)
  | getu32 (ra : Reg)
  | getu64 (ra : Reg)
  | geti8 (ra : Reg)
  | geti16 (ra : Reg)
  | geti32 (ra : Reg)
  | geti64 (ra : Reg)
  | swrd
  | setc
  | clrc
  | getc
  | setv
  | clrv
  | getv
  | setz
  | clrz
  | getz
  | setn
  | clrn
  | getn
  | setid
  | clrid
  | getid
  | selam
  | getam
  | selrs
  | getrs
  | selps
  | getps
  | selcs
  | getcs
  | selos
  | getos
  | selmm
  | getmm
  | setsys
  | getsys
  | setusr
  | getusr
  | rfrd (f : BitVec 8)
  | rfwr (f : BitVec 8)
  | reset
  | push8
  | push16
  | push32
  | push64
  | pop8
  | pop16
  | pop32
  | pop64
deriving DecidableEq, Repr

end Sys2Proof
end

