-- ==== Sys2Proof/WellFormed.lean ====
section
/-! DEFINITION. Which commands the spec calls legal: CI is not 3 in ADD and SUB (30_encoding.md R68), F is at
most 14 in RFRD and RFWR (R70). Every other operand value is legal (R39, R69). -/

namespace Sys2Proof

/-- The legal values of CI (R68). -/
def legalCarrySelect (ci : BitVec 2) : Bool := ci != 3#2

/-- The legal values of F (R70). -/
def legalRegisterNumber (f : BitVec 8) : Bool := f.toNat ≤ 14

/-- A command no field of which holds an illegal value. -/
def Instr.wellFormed (i : Instr) : Bool :=
  match i with
  | .add _ _ ci => legalCarrySelect ci
  | .sub _ _ ci => legalCarrySelect ci
  | .and _ _ => true
  | .or _ _ => true
  | .xor _ _ => true
  | .cmp _ _ => true
  | .shl _ => true
  | .shr _ => true
  | .sar _ => true
  | .muls _ _ => true
  | .divs _ _ => true
  | .sext _ _ => true
  | .setu8 _ => true
  | .setu16 _ => true
  | .setu32 _ => true
  | .setu64 _ => true
  | .seti8 _ => true
  | .seti16 _ => true
  | .seti32 _ => true
  | .seti64 _ => true
  | .getu8 _ => true
  | .getu16 _ => true
  | .getu32 _ => true
  | .getu64 _ => true
  | .geti8 _ => true
  | .geti16 _ => true
  | .geti32 _ => true
  | .geti64 _ => true
  | .swrd => true
  | .setc => true
  | .clrc => true
  | .getc => true
  | .setv => true
  | .clrv => true
  | .getv => true
  | .setz => true
  | .clrz => true
  | .getz => true
  | .setn => true
  | .clrn => true
  | .getn => true
  | .setid => true
  | .clrid => true
  | .getid => true
  | .selam => true
  | .getam => true
  | .selrs => true
  | .getrs => true
  | .selps => true
  | .getps => true
  | .selcs => true
  | .getcs => true
  | .selos => true
  | .getos => true
  | .selmm => true
  | .getmm => true
  | .setsys => true
  | .getsys => true
  | .setusr => true
  | .getusr => true
  | .rfrd f => legalRegisterNumber f
  | .rfwr f => legalRegisterNumber f
  | .reset => true
  | .push8 => true
  | .push16 => true
  | .push32 => true
  | .push64 => true
  | .pop8 => true
  | .pop16 => true
  | .pop32 => true
  | .pop64 => true

end Sys2Proof
end

