-- ==== Sys2Proof/Decode.lean ====
section
/-! DEFINITION. The decoder of 30_encoding.md R74, total on every 32-bit command word, and the encoder of R66. -/

namespace Sys2Proof

/-- Why a command word is rejected (R67, R68, R70, R73); each is the block's one error IllegalCommand
(60_exceptions.md R173). -/
inductive DecodeError where
  /-- OP is not in the opcode map (R73). -/
  | reservedOpcode
  /-- Bits 7:0 are not 0 (R67). -/
  | reservedBits
  /-- A field the command does not use is not 0 (R67). -/
  | unusedField
  /-- CI = 3 in ADD or SUB (R68). -/
  | illegalCarrySelect
  /-- F > 14 in RFRD or RFWR (R70). -/
  | illegalRegisterNumber
deriving DecidableEq, Repr

/-- The register a 2-bit index names (10_state.md R39). -/
def Reg.ofBits (b : BitVec 2) : Reg :=
  match b.toNat with
  | 0 => .r0
  | 1 => .r1
  | 2 => .r2
  | _ => .r3

/-- A register's index (10_state.md R39). -/
def Reg.toBits (r : Reg) : BitVec 2 :=
  match r with
  | .r0 => 0#2
  | .r1 => 1#2
  | .r2 => 2#2
  | .r3 => 3#2

/-- One row of the opcode map (R72): the fields the command uses, and the command. -/
structure OpRow where
  usesRA : Bool
  usesRB : Bool
  usesCI : Bool
  usesW : Bool
  usesF : Bool
  build : Reg → Reg → BitVec 2 → BitVec 2 → BitVec 8 → Instr

/-- A row with no field. -/
def rowNone (i : Instr) : OpRow := ⟨false, false, false, false, false, fun _ _ _ _ _ => i⟩

/-- A row with field RA. -/
def rowRA (c : Reg → Instr) : OpRow := ⟨true, false, false, false, false, fun ra _ _ _ _ => c ra⟩

/-- A row with fields RA and RB. -/
def rowRARB (c : Reg → Reg → Instr) : OpRow :=
  ⟨true, true, false, false, false, fun ra rb _ _ _ => c ra rb⟩

/-- A row with fields RA, RB and CI. -/
def rowRARBCI (c : Reg → Reg → BitVec 2 → Instr) : OpRow :=
  ⟨true, true, true, false, false, fun ra rb ci _ _ => c ra rb ci⟩

/-- A row with fields RA and W. -/
def rowRAW (c : Reg → BitVec 2 → Instr) : OpRow :=
  ⟨true, false, false, true, false, fun ra _ _ w _ => c ra w⟩

/-- A row with field F. -/
def rowF (c : BitVec 8 → Instr) : OpRow :=
  ⟨false, false, false, false, true, fun _ _ _ _ f => c f⟩

/-- The opcode map (R72). -/
def opMap (op : Nat) : Option OpRow :=
  match op with
  | 0x10 => some (rowRARBCI .add)
  | 0x11 => some (rowRARBCI .sub)
  | 0x12 => some (rowRARB .and)
  | 0x13 => some (rowRARB .or)
  | 0x14 => some (rowRARB .xor)
  | 0x15 => some (rowRARB .cmp)
  | 0x16 => some (rowRA .shl)
  | 0x17 => some (rowRA .shr)
  | 0x18 => some (rowRA .sar)
  | 0x19 => some (rowRARB .muls)
  | 0x1A => some (rowRARB .divs)
  | 0x1B => some (rowRAW .sext)
  | 0x20 => some (rowRA .setu8)
  | 0x21 => some (rowRA .setu16)
  | 0x22 => some (rowRA .setu32)
  | 0x23 => some (rowRA .setu64)
  | 0x24 => some (rowRA .seti8)
  | 0x25 => some (rowRA .seti16)
  | 0x26 => some (rowRA .seti32)
  | 0x27 => some (rowRA .seti64)
  | 0x28 => some (rowRA .getu8)
  | 0x29 => some (rowRA .getu16)
  | 0x2A => some (rowRA .getu32)
  | 0x2B => some (rowRA .getu64)
  | 0x2C => some (rowRA .geti8)
  | 0x2D => some (rowRA .geti16)
  | 0x2E => some (rowRA .geti32)
  | 0x2F => some (rowRA .geti64)
  | 0x30 => some (rowNone .swrd)
  | 0x31 => some (rowNone .setc)
  | 0x32 => some (rowNone .clrc)
  | 0x33 => some (rowNone .getc)
  | 0x34 => some (rowNone .setv)
  | 0x35 => some (rowNone .clrv)
  | 0x36 => some (rowNone .getv)
  | 0x37 => some (rowNone .setz)
  | 0x38 => some (rowNone .clrz)
  | 0x39 => some (rowNone .getz)
  | 0x3A => some (rowNone .setn)
  | 0x3B => some (rowNone .clrn)
  | 0x3C => some (rowNone .getn)
  | 0x3D => some (rowNone .setid)
  | 0x3E => some (rowNone .clrid)
  | 0x3F => some (rowNone .getid)
  | 0x40 => some (rowNone .selam)
  | 0x41 => some (rowNone .getam)
  | 0x42 => some (rowNone .selrs)
  | 0x43 => some (rowNone .getrs)
  | 0x44 => some (rowNone .selps)
  | 0x45 => some (rowNone .getps)
  | 0x46 => some (rowNone .selcs)
  | 0x47 => some (rowNone .getcs)
  | 0x48 => some (rowNone .selos)
  | 0x49 => some (rowNone .getos)
  | 0x4A => some (rowNone .selmm)
  | 0x4B => some (rowNone .getmm)
  | 0x4C => some (rowNone .setsys)
  | 0x4D => some (rowNone .getsys)
  | 0x4E => some (rowNone .setusr)
  | 0x4F => some (rowNone .getusr)
  | 0x50 => some (rowF .rfrd)
  | 0x51 => some (rowF .rfwr)
  | 0x52 => some (rowNone .reset)
  | 0x60 => some (rowNone .push8)
  | 0x61 => some (rowNone .push16)
  | 0x62 => some (rowNone .push32)
  | 0x63 => some (rowNone .push64)
  | 0x64 => some (rowNone .pop8)
  | 0x65 => some (rowNone .pop16)
  | 0x66 => some (rowNone .pop32)
  | 0x67 => some (rowNone .pop64)
  | _ => none

/-- The decoder, check by check in the order of R74. -/
def decode (cmd : BitVec 32) : Except DecodeError Instr :=
  let ra := cmd.extractLsb' 22 2
  let rb := cmd.extractLsb' 20 2
  let ci := cmd.extractLsb' 18 2
  let w := cmd.extractLsb' 16 2
  let f := cmd.extractLsb' 8 8
  match opMap (cmd.extractLsb' 24 8).toNat with
  | none => .error .reservedOpcode
  | some row =>
    if cmd.extractLsb' 0 8 != 0#8 then .error .reservedBits
    else if (!row.usesRA && ra != 0#2) || (!row.usesRB && rb != 0#2) || (!row.usesCI && ci != 0#2)
        || (!row.usesW && w != 0#2) || (!row.usesF && f != 0#8) then .error .unusedField
    else if row.usesCI && !legalCarrySelect ci then .error .illegalCarrySelect
    else if row.usesF && !legalRegisterNumber f then .error .illegalRegisterNumber
    else .ok (row.build (Reg.ofBits ra) (Reg.ofBits rb) ci w f)

/-- A command word from its fields: `OP<<24 | RA<<22 | RB<<20 | CI<<18 | W<<16 | F<<8` (R66). -/
def packWord (op : BitVec 8) (ra rb ci w : BitVec 2) (f : BitVec 8) : BitVec 32 :=
  op ++ ra ++ rb ++ ci ++ w ++ f ++ 0#8

/-- The command word of a command (R66, R72); a field the command does not use is 0 (R67). -/
def encode (i : Instr) : BitVec 32 :=
  match i with
  | .add ra rb ci => packWord 0x10#8 ra.toBits rb.toBits ci 0#2 0#8
  | .sub ra rb ci => packWord 0x11#8 ra.toBits rb.toBits ci 0#2 0#8
  | .and ra rb => packWord 0x12#8 ra.toBits rb.toBits 0#2 0#2 0#8
  | .or ra rb => packWord 0x13#8 ra.toBits rb.toBits 0#2 0#2 0#8
  | .xor ra rb => packWord 0x14#8 ra.toBits rb.toBits 0#2 0#2 0#8
  | .cmp ra rb => packWord 0x15#8 ra.toBits rb.toBits 0#2 0#2 0#8
  | .shl ra => packWord 0x16#8 ra.toBits 0#2 0#2 0#2 0#8
  | .shr ra => packWord 0x17#8 ra.toBits 0#2 0#2 0#2 0#8
  | .sar ra => packWord 0x18#8 ra.toBits 0#2 0#2 0#2 0#8
  | .muls ra rb => packWord 0x19#8 ra.toBits rb.toBits 0#2 0#2 0#8
  | .divs ra rb => packWord 0x1A#8 ra.toBits rb.toBits 0#2 0#2 0#8
  | .sext ra w => packWord 0x1B#8 ra.toBits 0#2 0#2 w 0#8
  | .setu8 ra => packWord 0x20#8 ra.toBits 0#2 0#2 0#2 0#8
  | .setu16 ra => packWord 0x21#8 ra.toBits 0#2 0#2 0#2 0#8
  | .setu32 ra => packWord 0x22#8 ra.toBits 0#2 0#2 0#2 0#8
  | .setu64 ra => packWord 0x23#8 ra.toBits 0#2 0#2 0#2 0#8
  | .seti8 ra => packWord 0x24#8 ra.toBits 0#2 0#2 0#2 0#8
  | .seti16 ra => packWord 0x25#8 ra.toBits 0#2 0#2 0#2 0#8
  | .seti32 ra => packWord 0x26#8 ra.toBits 0#2 0#2 0#2 0#8
  | .seti64 ra => packWord 0x27#8 ra.toBits 0#2 0#2 0#2 0#8
  | .getu8 ra => packWord 0x28#8 ra.toBits 0#2 0#2 0#2 0#8
  | .getu16 ra => packWord 0x29#8 ra.toBits 0#2 0#2 0#2 0#8
  | .getu32 ra => packWord 0x2A#8 ra.toBits 0#2 0#2 0#2 0#8
  | .getu64 ra => packWord 0x2B#8 ra.toBits 0#2 0#2 0#2 0#8
  | .geti8 ra => packWord 0x2C#8 ra.toBits 0#2 0#2 0#2 0#8
  | .geti16 ra => packWord 0x2D#8 ra.toBits 0#2 0#2 0#2 0#8
  | .geti32 ra => packWord 0x2E#8 ra.toBits 0#2 0#2 0#2 0#8
  | .geti64 ra => packWord 0x2F#8 ra.toBits 0#2 0#2 0#2 0#8
  | .swrd => packWord 0x30#8 0#2 0#2 0#2 0#2 0#8
  | .setc => packWord 0x31#8 0#2 0#2 0#2 0#2 0#8
  | .clrc => packWord 0x32#8 0#2 0#2 0#2 0#2 0#8
  | .getc => packWord 0x33#8 0#2 0#2 0#2 0#2 0#8
  | .setv => packWord 0x34#8 0#2 0#2 0#2 0#2 0#8
  | .clrv => packWord 0x35#8 0#2 0#2 0#2 0#2 0#8
  | .getv => packWord 0x36#8 0#2 0#2 0#2 0#2 0#8
  | .setz => packWord 0x37#8 0#2 0#2 0#2 0#2 0#8
  | .clrz => packWord 0x38#8 0#2 0#2 0#2 0#2 0#8
  | .getz => packWord 0x39#8 0#2 0#2 0#2 0#2 0#8
  | .setn => packWord 0x3A#8 0#2 0#2 0#2 0#2 0#8
  | .clrn => packWord 0x3B#8 0#2 0#2 0#2 0#2 0#8
  | .getn => packWord 0x3C#8 0#2 0#2 0#2 0#2 0#8
  | .setid => packWord 0x3D#8 0#2 0#2 0#2 0#2 0#8
  | .clrid => packWord 0x3E#8 0#2 0#2 0#2 0#2 0#8
  | .getid => packWord 0x3F#8 0#2 0#2 0#2 0#2 0#8
  | .selam => packWord 0x40#8 0#2 0#2 0#2 0#2 0#8
  | .getam => packWord 0x41#8 0#2 0#2 0#2 0#2 0#8
  | .selrs => packWord 0x42#8 0#2 0#2 0#2 0#2 0#8
  | .getrs => packWord 0x43#8 0#2 0#2 0#2 0#2 0#8
  | .selps => packWord 0x44#8 0#2 0#2 0#2 0#2 0#8
  | .getps => packWord 0x45#8 0#2 0#2 0#2 0#2 0#8
  | .selcs => packWord 0x46#8 0#2 0#2 0#2 0#2 0#8
  | .getcs => packWord 0x47#8 0#2 0#2 0#2 0#2 0#8
  | .selos => packWord 0x48#8 0#2 0#2 0#2 0#2 0#8
  | .getos => packWord 0x49#8 0#2 0#2 0#2 0#2 0#8
  | .selmm => packWord 0x4A#8 0#2 0#2 0#2 0#2 0#8
  | .getmm => packWord 0x4B#8 0#2 0#2 0#2 0#2 0#8
  | .setsys => packWord 0x4C#8 0#2 0#2 0#2 0#2 0#8
  | .getsys => packWord 0x4D#8 0#2 0#2 0#2 0#2 0#8
  | .setusr => packWord 0x4E#8 0#2 0#2 0#2 0#2 0#8
  | .getusr => packWord 0x4F#8 0#2 0#2 0#2 0#2 0#8
  | .rfrd f => packWord 0x50#8 0#2 0#2 0#2 0#2 f
  | .rfwr f => packWord 0x51#8 0#2 0#2 0#2 0#2 f
  | .reset => packWord 0x52#8 0#2 0#2 0#2 0#2 0#8
  | .push8 => packWord 0x60#8 0#2 0#2 0#2 0#2 0#8
  | .push16 => packWord 0x61#8 0#2 0#2 0#2 0#2 0#8
  | .push32 => packWord 0x62#8 0#2 0#2 0#2 0#2 0#8
  | .push64 => packWord 0x63#8 0#2 0#2 0#2 0#2 0#8
  | .pop8 => packWord 0x64#8 0#2 0#2 0#2 0#2 0#8
  | .pop16 => packWord 0x65#8 0#2 0#2 0#2 0#2 0#8
  | .pop32 => packWord 0x66#8 0#2 0#2 0#2 0#2 0#8
  | .pop64 => packWord 0x67#8 0#2 0#2 0#2 0#2 0#8

/-- What the decoder reads from an instruction whose bits are `w`. Every command is one 32-bit word (R75),
given to the port whole, so there is no byte order to choose. -/
def decodeTableWord (nbits w : Nat) : Option Instr :=
  if nbits ≤ 32 then
    match decode (BitVec.ofNat 32 (w % 2 ^ nbits)) with
    | .ok i => some i
    | .error _ => none
  else none

end Sys2Proof
end

