-- ==== Sys2Proof/Config.lean ====
section
/-! DEFINITION. The parameters of the block (00_scope.md R8) and the draw `ALIAS_ORDER` (R16). They are
plain data, so that State can carry them and a statement about every state holds for every value of
them (assumption log, entries 4 and 6). -/

namespace Sys2Proof

/-- `SUB_BORROW` (41_alu.md R119, decision D9). -/
inductive SubBorrow where
  | direct
  | inverted
deriving DecidableEq, Repr

/-- `MUL64_NEG_SPLIT` (41_alu.md R127, decision D14). -/
inductive Mul64NegSplit where
  | wide
  | halves
deriving DecidableEq, Repr

/-- The draw `ALIAS_ORDER` of one command (00_scope.md R16, decision D17): which of two results written
to one register stays. -/
inductive AliasOrder where
  | aLast
  | bLast
deriving DecidableEq, Repr

/-- The parameters of 00_scope.md R8. `STK_INIT` is not here: it is the buffer's contents at creation. -/
structure Params where
  /-- `STK_LEN`, the buffer's length L in bytes. -/
  stkLen : Nat
  /-- `STK_TOP`, the initial and top-bound pointer, in the pointer's own signed 32 bits (R45). -/
  stkTop : BitVec 32
  subBorrow : SubBorrow
  /-- `SAR_FINAL_SEXT`. -/
  sarFinalSext : Bool
  mul64NegSplit : Mul64NegSplit
deriving DecidableEq, Repr

/-- The values R8 allows: 1 ≤ L ≤ 2^31 and −1 ≤ STK_TOP ≤ L − 1. -/
abbrev Params.Legal (p : Params) : Prop :=
  1 ≤ p.stkLen ∧ p.stkLen ≤ 2 ^ 31 ∧ -1 ≤ p.stkTop.toInt ∧ p.stkTop.toInt < p.stkLen

/-- The defaults of R8: L = 65536, STK_TOP = L − 1, DIRECT, no final extension, WIDE. -/
def Params.default : Params where
  stkLen := 65536
  stkTop := 65535#32
  subBorrow := .direct
  sarFinalSext := false
  mul64NegSplit := .wide

end Sys2Proof
end

