-- ==== Sys2Proof/Machine/State.lean ====
section
/-! DEFINITION. The state of the block (10_state.md R20 to R48), the inputs and outputs of its command port
(30_encoding.md R64), the reasons a step stops, and reset (70_reset_and_hazards.md R184). -/

namespace Sys2Proof.Machine

/-- The error kinds on `err` (30_encoding.md R65). -/
inductive ErrorCode where
  | noError
  | invalidFieldValue
  | divisionByZero
  | stackOverflow
  | stackUnderflow
  | illegalCommand
deriving DecidableEq, Repr

/-- The RegisterFile (10_state.md R38, R20, R41). -/
structure RegisterFile where
  x0 : BitVec 64
  x1 : BitVec 64
  x2 : BitVec 64
  x3 : BitVec 64
  sw : BitVec 32
  ptr0 : BitVec 32
  ptr1 : BitVec 32
  ofs0 : BitVec 16
  ofs1 : BitVec 16
  ix0 : BitVec 16
  ix1 : BitVec 16
  ixs0 : BitVec 16
  ixs1 : BitVec 16
  cnt0 : BitVec 32
  cnt1 : BitVec 32
  cnts0 : BitVec 16
  cnts1 : BitVec 16
  pc : BitVec 32
  sb : BitVec 32
  sp : BitVec 16
deriving DecidableEq, Repr

/-- The buffer: (index, byte) pairs, indices strictly rising, none equal to what an unlisted index reads as
(assumption log, entry 5). -/
abbrev Memory := List Host.Cell

/-- The Stack unit (10_state.md R45). `ptr` is a signed 32-bit index. -/
structure StackUnit where
  ptr : BitVec 32
  mem : Memory
deriving DecidableEq, Repr

/-- The inputs of one command (30_encoding.md R64): command word, data input, draw. -/
structure PortInput where
  cmd : BitVec 32
  d : BitVec 64
  draw : AliasOrder
deriving DecidableEq, Repr

/-- The block, its port and its parameters. `q` and `err` are the outputs of the latest command, `d` and `draw`
the inputs of the command being executed, `pending` the inputs the executor is still to present, oldest
first (assumption log, entries 1, 3, 4, 6). -/
structure State where
  rf : RegisterFile
  stk : StackUnit
  q : BitVec 64
  err : ErrorCode
  d : BitVec 64
  draw : AliasOrder
  pending : List PortInput
  params : Params
deriving DecidableEq, Repr

/-- Why a run stops. -/
inductive Fault where
  /-- Raised by the SEL commands when the value is out of the field's range (60_exceptions.md R169): a fatal
  error, "a fault of the run" (R175). `after` is the block's state after the failing command, unchanged but
  for `q = 0` and `err`, from which the block accepts further commands. Safe: it is what the spec says. -/
  | invalidFieldValue (after : State)
  /-- Raised by decoding (R173), a fatal error in the same way (R175). Safe: it is what the spec says. -/
  | illegalCommand (after : State)
  /-- Raised by PUSHn and POPn when a byte they would access, `index` the lowest, lies outside the buffer
  (20_memory.md R50). Only a state that breaks R45's invariant, which no run reaches, raises it. Safe. -/
  | noSuchByte (index : Int)
deriving DecidableEq, Repr

/-- Why an instruction has no meaning. -/
inductive Refusal where
  /-- Raised by an arm of exec whose instruction has no meaning yet; no arm does. Safe. -/
  | notModelled (mnemonic : String)
deriving DecidableEq, Repr

/-- The RegisterFile after either reset event (10_state.md R48). -/
def RegisterFile.reset : RegisterFile where
  x0 := 0#64
  x1 := 0#64
  x2 := 0#64
  x3 := 0#64
  sw := 0#32
  ptr0 := 0#32
  ptr1 := 0#32
  ofs0 := 0#16
  ofs1 := 0#16
  ix0 := 0#16
  ix1 := 0#16
  ixs0 := 0#16
  ixs1 := 0#16
  cnt0 := 0#32
  cnt1 := 0#32
  cnts0 := 0#16
  cnts1 := 0#16
  pc := 0#32
  sb := 0xFFFE0000#32
  sp := 0xFFFF#16

/-- Creation (70_reset_and_hazards.md R184): the RegisterFile at its reset values, the Stack unit with
`STK.ptr = STK_TOP` and `STK.mem = STK_INIT` (10_state.md R46). DESIGN CHOICE (entries 1, 3, 6): before
any command `q`, `err`, `d` and `draw` are 0, None, 0 and A_LAST, and no command is pending. -/
def State.create (p : Params) (stkInit : Memory) : State where
  rf := RegisterFile.reset
  stk := { ptr := p.stkTop, mem := stkInit }
  q := 0#64
  err := .noError
  d := 0#64
  draw := .aLast
  pending := []
  params := p

/-- Creation with the default parameters of 00_scope.md R8. DESIGN CHOICE, unsafe (entry 5): STK_INIT is all
zero bytes. -/
def State.reset : State := State.create Params.default []

end Sys2Proof.Machine
end

