-- ==== Sys2Proof/Machine/Ops.lean ====
section
/-! DEFINITION. The named operations over the registers, the buffer and the port, how a command ends, how an
error is raised, and how a command reaches the block. There is no return from an error
(60_exceptions.md R179). -/

namespace Sys2Proof.Machine

/-- What one command answers. -/
abbrev Result := Host.Outcome State Fault Refusal

/-! ## General registers (10_state.md R38, R39) -/

/-- `x[r]` (00_scope.md R14). -/
def State.x (s : State) (r : Reg) : BitVec 64 :=
  match r with
  | .r0 => s.rf.x0
  | .r1 => s.rf.x1
  | .r2 => s.rf.x2
  | .r3 => s.rf.x3

/-- `x[r] <- v`. -/
def State.setX (s : State) (r : Reg) (v : BitVec 64) : State :=
  match r with
  | .r0 => { s with rf := { s.rf with x0 := v } }
  | .r1 => { s with rf := { s.rf with x1 := v } }
  | .r2 => { s with rf := { s.rf with x2 := v } }
  | .r3 => { s with rf := { s.rf with x3 := v } }

/-- The two results of one command: to RA and to RB, the draw choosing which stays when RA = RB
(00_scope.md R16). -/
def State.setTwo (s : State) (ra rb : Reg) (va vb : BitVec 64) : State :=
  match s.draw with
  | .aLast => (s.setX rb vb).setX ra va
  | .bLast => (s.setX ra va).setX rb vb

/-! ## Special-purpose registers (10_state.md R41, R42) -/

/-- A special-purpose register's value, zero-extended from its width (44_register_file.md R165). -/
def State.spr (s : State) (n : Spr) : BitVec 64 :=
  match n with
  | .ptr0 => s.rf.ptr0.setWidth 64
  | .ptr1 => s.rf.ptr1.setWidth 64
  | .ofs0 => s.rf.ofs0.setWidth 64
  | .ofs1 => s.rf.ofs1.setWidth 64
  | .ix0 => s.rf.ix0.setWidth 64
  | .ix1 => s.rf.ix1.setWidth 64
  | .ixs0 => s.rf.ixs0.setWidth 64
  | .ixs1 => s.rf.ixs1.setWidth 64
  | .cnt0 => s.rf.cnt0.setWidth 64
  | .cnt1 => s.rf.cnt1.setWidth 64
  | .cnts0 => s.rf.cnts0.setWidth 64
  | .cnts1 => s.rf.cnts1.setWidth 64
  | .pc => s.rf.pc.setWidth 64
  | .sb => s.rf.sb.setWidth 64
  | .sp => s.rf.sp.setWidth 64

/-- A special-purpose register takes the low bits of `v` that fit it (44_register_file.md R166). -/
def State.setSpr (s : State) (n : Spr) (v : BitVec 64) : State :=
  match n with
  | .ptr0 => { s with rf := { s.rf with ptr0 := v.setWidth 32 } }
  | .ptr1 => { s with rf := { s.rf with ptr1 := v.setWidth 32 } }
  | .ofs0 => { s with rf := { s.rf with ofs0 := v.setWidth 16 } }
  | .ofs1 => { s with rf := { s.rf with ofs1 := v.setWidth 16 } }
  | .ix0 => { s with rf := { s.rf with ix0 := v.setWidth 16 } }
  | .ix1 => { s with rf := { s.rf with ix1 := v.setWidth 16 } }
  | .ixs0 => { s with rf := { s.rf with ixs0 := v.setWidth 16 } }
  | .ixs1 => { s with rf := { s.rf with ixs1 := v.setWidth 16 } }
  | .cnt0 => { s with rf := { s.rf with cnt0 := v.setWidth 32 } }
  | .cnt1 => { s with rf := { s.rf with cnt1 := v.setWidth 32 } }
  | .cnts0 => { s with rf := { s.rf with cnts0 := v.setWidth 16 } }
  | .cnts1 => { s with rf := { s.rf with cnts1 := v.setWidth 16 } }
  | .pc => { s with rf := { s.rf with pc := v.setWidth 32 } }
  | .sb => { s with rf := { s.rf with sb := v.setWidth 32 } }
  | .sp => { s with rf := { s.rf with sp := v.setWidth 16 } }

/-- The whole status word. -/
def State.sw (s : State) : BitVec 32 := s.rf.sw

/-- The status word becomes `v`. No command hands it a word of its own making (10_state.md R24): the field
operations of Flags.lean do. -/
def State.setSw (s : State) (v : BitVec 32) : State := { s with rf := { s.rf with sw := v } }

/-- The RegisterFile becomes `rf`. -/
def State.setRf (s : State) (rf : RegisterFile) : State := { s with rf := rf }

/-- The Stack unit becomes `stk`. -/
def State.setStk (s : State) (stk : StackUnit) : State := { s with stk := stk }

/-! ## How a command ends -/

/-- The outputs of the port become `q` and `err = e` (30_encoding.md R64). -/
def State.drive (s : State) (q : BitVec 64) (e : ErrorCode) : State := { s with q := q, err := e }

/-- The command ends without an error: `q` is driven and `err = 0` (00_scope.md R15, R17). -/
def finish (s : State) (q : BitVec 64) : Result := .next (s.drive q .noError)

/-- `raise E` (00_scope.md R15; 60_exceptions.md R174): `q = 0`, `err = E`, everything else as it was, for `s` is
the state before the command's writes. A recoverable error is an ordinary outcome and a fatal one a fault
of the run (R175; 90_conflicts.md C8). -/
def raise (e : ErrorCode) (s : State) : Result :=
  match e with
  | .noError => .next (s.drive 0#64 e)
  | .invalidFieldValue => .fault (.invalidFieldValue (s.drive 0#64 e))
  | .divisionByZero => .next (s.drive 0#64 e)
  | .stackOverflow => .next (s.drive 0#64 e)
  | .stackUnderflow => .next (s.drive 0#64 e)
  | .illegalCommand => .fault (.illegalCommand (s.drive 0#64 e))

/-- The number an error kind has on `err` (30_encoding.md R65). -/
def ErrorCode.number (e : ErrorCode) : BitVec 3 :=
  match e with
  | .noError => 0#3
  | .invalidFieldValue => 1#3
  | .divisionByZero => 2#3
  | .stackOverflow => 3#3
  | .stackUnderflow => 4#3
  | .illegalCommand => 5#3

/-! ## The buffer (20_memory.md R49 to R56) -/

/-- What an index that the list does not hold reads as (DESIGN CHOICE, entry 5). -/
def unlistedByte : Byte := 0#8

/-- `MemRead(k, 1)` (R50). -/
def memRead (m : Memory) (k : Nat) : Byte :=
  match m with
  | [] => unlistedByte
  | (a, b) :: rest => if a = k then b else memRead rest k

/-- `MemWrite(k, 1, b)` (R50), keeping the list's canonical form. -/
def memWrite (m : Memory) (k : Nat) (b : Byte) : Memory :=
  match m with
  | [] => if b = unlistedByte then [] else [(k, b)]
  | (a, c) :: rest =>
    if k < a then (if b = unlistedByte then (a, c) :: rest else (k, b) :: (a, c) :: rest)
    else if k = a then (if b = unlistedByte then rest else (k, b) :: rest)
    else (a, c) :: memWrite rest k b

/-- The canonical form: indices strictly rising, no byte that an unlisted index reads as. -/
def Memory.wf (m : Memory) : Bool :=
  match m with
  | [] => true
  | (a, b) :: rest => b != unlistedByte && rest.all (fun c => a < c.1) && Memory.wf rest

/-- Every listed index is a byte of a buffer of length `l` (R49). -/
def Memory.within (l : Nat) (m : Memory) : Bool := m.all (fun c => c.1 < l)

/-- Byte `k` of the buffer, `STK.mem[k]`. -/
def State.byteAt (s : State) (k : Nat) : Byte := memRead s.stk.mem k

/-- Writes the `n` low bytes of `v` at index `k` and up, the least significant at `k` (R51). -/
def memWriteBytes (n : Nat) (m : Memory) (k v : Nat) : Memory :=
  match n with
  | 0 => m
  | n + 1 => memWriteBytes n (memWrite m k (BitVec.ofNat 8 v)) (k + 1) (v / 256)

/-- The value of the `n` bytes at index `k` and up, the least significant at `k` (R52). -/
def memReadBytes (n : Nat) (m : Memory) (k : Nat) : Nat :=
  match n with
  | 0 => 0
  | n + 1 => (memRead m k).toNat + 256 * memReadBytes n m (k + 1)

/-- The buffer an STK_INIT of these bytes makes, index 0 first (10_state.md R46). -/
def Memory.ofBytes (bytes : List Byte) : Memory :=
  memWriteAll [] 0 bytes
where
  /-- Writes the bytes one after another from index `k` up. -/
  memWriteAll (m : Memory) (k : Nat) (bytes : List Byte) : Memory :=
    match bytes with
    | [] => m
    | b :: rest => memWriteAll (memWrite m k b) (k + 1) rest

/-- The pointer as a signed number (10_state.md R45). -/
def State.stkPtr (s : State) : Int := s.stk.ptr.toInt

/-- The indices `k` to `k + n - 1` are bytes of the buffer (20_memory.md R50). -/
def State.inBuffer (s : State) (k : Int) (n : Nat) : Bool := 0 ≤ k && k + n ≤ s.params.stkLen

/-- A push of the `n` low bytes of the data input (43_stack.md R154, R156 to R159; 20_memory.md R51). -/
def pushBytes (n : Nat) (s : State) : Result :=
  let lowest := s.stkPtr - (n - 1)
  if s.stkPtr < n - 1 then raise .stackOverflow s
  else if s.inBuffer lowest n then
    finish (s.setStk { ptr := s.stk.ptr - BitVec.ofNat 32 n,
                       mem := memWriteBytes n s.stk.mem lowest.toNat s.d.toNat }) 0#64
  else .fault (.noSuchByte lowest)

/-- A pop of `n` bytes (43_stack.md R155, R160 to R163; 20_memory.md R52, R56). -/
def popBytes (n : Nat) (s : State) : Result :=
  let lowest := s.stkPtr + 1
  if s.stkPtr + n > s.params.stkTop.toInt then raise .stackUnderflow s
  else if s.inBuffer lowest n then
    finish (s.setStk { s.stk with ptr := s.stk.ptr + BitVec.ofNat 32 n })
      (BitVec.ofNat 64 (memReadBytes n s.stk.mem lowest.toNat))
  else .fault (.noSuchByte lowest)

/-! ## The command port (30_encoding.md R64) -/

/-- The executor presents `p`, with `rest` still to come. -/
def State.accept (s : State) (p : PortInput) (rest : List PortInput) : State :=
  { s with d := p.d, draw := p.draw, pending := rest }

/-- The next command's inputs and the state with them at the port. -/
def State.fetch (s : State) : Option (BitVec 32 × State) :=
  match s.pending with
  | [] => none
  | p :: rest => some (p.cmd, s.accept p rest)

/-- The next command's word becomes `cmd`, its data input and draw as they stand: those of the inputs next in
line, or, where none are, the ones at the port. -/
def State.presentWord (s : State) (cmd : BitVec 32) : State :=
  match s.pending with
  | [] => { s with pending := [{ cmd := cmd, d := s.d, draw := s.draw }] }
  | p :: rest => { s with pending := { p with cmd := cmd } :: rest }

end Sys2Proof.Machine
end

