-- ==== Sys2Proof/Machine/Flags.lean ====
section
/-! DEFINITION. The fields of the status word (10_state.md R21), their reads and writes (R22, R23), and the flag
computations of the ALU (41_alu.md R115, R116). -/

namespace Sys2Proof.Machine

/-- The 13 fields of SW (10_state.md R21). -/
inductive SwField where
  | c
  | v
  | z
  | n
  | am
  | id
  | rs
  | ps
  | cs
  | os
  | mm
  | sys
  | usr
deriving DecidableEq, Repr

/-- The lowest bit of a field (R21). -/
def SwField.lo (f : SwField) : Nat :=
  match f with
  | .c => 31
  | .v => 30
  | .z => 29
  | .n => 28
  | .am => 25
  | .id => 24
  | .rs => 22
  | .ps => 21
  | .cs => 20
  | .os => 18
  | .mm => 16
  | .sys => 8
  | .usr => 0

/-- The width of a field (R21). -/
def SwField.width (f : SwField) : Nat :=
  match f with
  | .c => 1
  | .v => 1
  | .z => 1
  | .n => 1
  | .am => 3
  | .id => 1
  | .rs => 2
  | .ps => 1
  | .cs => 1
  | .os => 2
  | .mm => 2
  | .sys => 8
  | .usr => 8

/-- The bits of a field. -/
def SwField.mask (f : SwField) : BitVec 32 := BitVec.ofNat 32 (2 ^ f.width - 1) <<< f.lo

/-- A field's value, zero-extended (40_status_word.md R82, R97). -/
def swGet (f : SwField) (sw : BitVec 32) : BitVec 64 := ((sw &&& f.mask) >>> f.lo).setWidth 64

/-- A field takes the low bits of `v`: mask-clear-then-OR (10_state.md R23). -/
def swPut (f : SwField) (v : BitVec 64) (sw : BitVec 32) : BitVec 32 :=
  (sw &&& ~~~f.mask) ||| ((v.setWidth 32 <<< f.lo) &&& f.mask)

/-- `SW.F <- v`. -/
def State.putField (s : State) (f : SwField) (v : BitVec 64) : State := s.setSw (swPut f v s.sw)

/-- A 1-bit field read as a truth value. -/
def State.flag (s : State) (f : SwField) : Bool := swGet f s.sw != 0#64

/-- A 1-bit field written with a truth value. -/
def State.putFlag (s : State) (f : SwField) (b : Bool) : State :=
  s.putField f (if b then 1#64 else 0#64)

/-! ## Commands on one field -/

/-- `SW.F <- 1` or `SW.F <- 0` (R79). -/
def writeFlag (f : SwField) (b : Bool) (s : State) : Result := finish (s.putFlag f b) 0#64

/-- `q <- zext(SW.F)` (40_status_word.md R82, R97, R109). -/
def readField (f : SwField) (s : State) : Result := finish s (swGet f s.sw)

/-- The selector contract (40_status_word.md R95): the whole data input is range-checked. -/
def selectField (f : SwField) (s : State) : Result :=
  if s.d.toNat > 2 ^ f.width - 1 then raise .invalidFieldValue s else finish (s.putField f s.d) 0#64

/-- A byte setter, unchecked (40_status_word.md R108, R110). -/
def writeByteField (f : SwField) (s : State) : Result := finish (s.putField f s.d) 0#64

/-! ## The ALU's flags -/

/-- Z and N from a 64-bit result: `SW.Z <- (r == 0)`, `SW.N <- r[63]` (41_alu.md R116). -/
def State.putZN (s : State) (r : BitVec 64) : State := (s.putFlag .z (r == 0#64)).putFlag .n r.msb

/-- C, V, Z and N. -/
def State.putCVZN (s : State) (c v : Bool) (r : BitVec 64) : State :=
  ((s.putFlag .c c).putFlag .v v).putZN r

/-- ADD's carry-out: the raw sum rolled over below self (41_alu.md R118). -/
def addCarry (a raw : BitVec 64) : Bool := raw.toNat < a.toNat

/-- ADD's overflow (R118). -/
def addOverflow (a b r : BitVec 64) : Bool := a.msb == b.msb && r.msb != a.msb

/-- SUB's carry-out, "no borrow needed" (R119). -/
def subCarry (a raw : BitVec 64) : Bool := !(decide (raw.toNat > a.toNat))

/-- SUB's overflow (R119). -/
def subOverflow (a b r : BitVec 64) : Bool := a.msb != b.msb && r.msb != a.msb

/-- CMP's C: unsigned greater-or-equal (R123). -/
def cmpCarry (a b : BitVec 64) : Bool := a.toNat ≥ b.toNat

/-- CMP's V: signed greater-or-equal (R123). -/
def cmpOverflow (a b : BitVec 64) : Bool :=
  (!a.msb && b.msb) || (a.msb == b.msb && decide (a.toNat ≥ b.toNat))

end Sys2Proof.Machine
end

