-- ==== Sys2Proof/Machine/Operands.lean ====
section
/-! DEFINITION. The operand forms of the commands (30_encoding.md R68 to R71) and the extension and shift
primitives (00_scope.md R10 to R12). -/

namespace Sys2Proof.Machine

/-- `sext_N(v)` (00_scope.md R12). -/
def sext (n : Nat) (v : BitVec 64) : BitVec 64 := (v.setWidth n).signExtend 64

/-- `zext_N(v)` (00_scope.md R12). -/
def zext (n : Nat) (v : BitVec 64) : BitVec 64 := (v.setWidth n).setWidth 64

/-- `8 * 2^e`: the width OperandSize or the field W selects (00_scope.md R11; 30_encoding.md R69). -/
def widthOf (e : Nat) : Nat := 8 * 2 ^ e

/-- `w(SW.OS)` (00_scope.md R11). -/
def State.operandWidth (s : State) : Nat := widthOf (swGet .os s.sw).toNat

/-- `a <<_64 n` (00_scope.md R10), 0 for n ≥ 64. -/
def shiftLeft64 (a : BitVec 64) (n : Nat) : BitVec 64 := if n < 64 then a <<< n else 0#64

/-- `a >>_64 n` (00_scope.md R10), 0 for n ≥ 64. -/
def shiftRight64 (a : BitVec 64) (n : Nat) : BitVec 64 := if n < 64 then a >>> n else 0#64

/-- The carry-in CI selects (30_encoding.md R68; 41_alu.md R114); CI = 3 is illegal. -/
def State.carryIn (s : State) (ci : BitVec 2) : Option Bool :=
  match ci.toNat with
  | 0 => some false
  | 1 => some true
  | 2 => some (s.flag .c)
  | _ => none

/-- The special-purpose register F names (30_encoding.md R70; 10_state.md R41); F > 14 is illegal. -/
def sprNumbered (f : BitVec 8) : Option Spr :=
  match f.toNat with
  | 0 => some .ptr0
  | 1 => some .ptr1
  | 2 => some .ofs0
  | 3 => some .ofs1
  | 4 => some .ix0
  | 5 => some .ix1
  | 6 => some .ixs0
  | 7 => some .ixs1
  | 8 => some .cnt0
  | 9 => some .cnt1
  | 10 => some .cnts0
  | 11 => some .cnts1
  | 12 => some .pc
  | 13 => some .sb
  | 14 => some .sp
  | _ => none

/-- A shift count: the whole data input read unsigned (30_encoding.md R71). -/
def State.shiftCount (s : State) : Nat := s.d.toNat

end Sys2Proof.Machine
end

