-- ==== Sys2Proof/Machine/Alu.lean ====
section
/-! DEFINITION. The ALU commands (41_alu.md). `a = x[RA]` and `b = x[RB]` are read before any write. -/

namespace Sys2Proof.Machine

/-- The borrow-in SUB takes from its carry-in (R119): the parameter SUB_BORROW. -/
def State.borrowIn (s : State) (cin : Bool) : Bool :=
  match s.params.subBorrow with
  | .direct => cin
  | .inverted => !cin

/-- `(u(a) + u(b) + cin) mod 2^64` (R118). -/
def addRaw (a b : BitVec 64) (cin : Bool) : BitVec 64 := BitVec.ofNat 64 (a.toNat + b.toNat + cin.toNat)

/-- `(u(a) - u(b) - bin) mod 2^64` (R119). -/
def subRaw (a b : BitVec 64) (bin : Bool) : BitVec 64 :=
  BitVec.ofInt 64 ((a.toNat : Int) - b.toNat - bin.toNat)

/-- A result written to RA with its Z and N (R120 to R126). -/
def finishZN (ra : Reg) (r : BitVec 64) (s : State) : Result := finish ((s.setX ra r).putZN r) 0#64

/-- ADD (R118). -/
def execAdd (ra rb : Reg) (ci : BitVec 2) (s : State) : Result :=
  match s.carryIn ci with
  | none => raise .illegalCommand s
  | some cin =>
    let a := s.x ra
    let b := s.x rb
    let raw := addRaw a b cin
    let r := sext s.operandWidth raw
    finish ((s.setX ra r).putCVZN (addCarry a raw) (addOverflow a b r) r) 0#64

/-- SUB (R119). -/
def execSub (ra rb : Reg) (ci : BitVec 2) (s : State) : Result :=
  match s.carryIn ci with
  | none => raise .illegalCommand s
  | some cin =>
    let a := s.x ra
    let b := s.x rb
    let raw := subRaw a b (s.borrowIn cin)
    let r := sext s.operandWidth raw
    finish ((s.setX ra r).putCVZN (subCarry a raw) (subOverflow a b r) r) 0#64

/-- AND (R120). -/
def execAnd (ra rb : Reg) (s : State) : Result := finishZN ra (sext s.operandWidth (s.x ra &&& s.x rb)) s

/-- OR (R121). -/
def execOr (ra rb : Reg) (s : State) : Result := finishZN ra (sext s.operandWidth (s.x ra ||| s.x rb)) s

/-- XOR (R122). -/
def execXor (ra rb : Reg) (s : State) : Result := finishZN ra (sext s.operandWidth (s.x ra ^^^ s.x rb)) s

/-- CMP (R123): no register is written, N is kept. -/
def execCmp (ra rb : Reg) (s : State) : Result :=
  let a := s.x ra
  let b := s.x rb
  finish (((s.putFlag .c (cmpCarry a b)).putFlag .v (cmpOverflow a b)).putFlag .z (a == b)) 0#64

/-- SHL (R124). -/
def execShl (ra : Reg) (s : State) : Result :=
  finishZN ra (sext s.operandWidth (shiftLeft64 (s.x ra) s.shiftCount)) s

/-- SHR (R125): the operand is zero-extended from w first. -/
def execShr (ra : Reg) (s : State) : Result :=
  finishZN ra (sext s.operandWidth (shiftRight64 (zext s.operandWidth (s.x ra)) s.shiftCount)) s

/-- `repeat n times: r <- (r >>_64 1) | 0x8000000000000000` (R126). -/
def shiftInOnes (n : Nat) (r : BitVec 64) : BitVec 64 :=
  match n with
  | 0 => r
  | n + 1 => shiftInOnes n ((r >>> 1) ||| 0x8000000000000000#64)

/-- SAR's shift on the full 64-bit sign (R126). -/
def shiftRightSigned64 (a : BitVec 64) (n : Nat) : BitVec 64 :=
  if a.msb then (if n ≥ 64 then 0xFFFFFFFFFFFFFFFF#64 else shiftInOnes n a) else shiftRight64 a n

/-- SAR (R126); the final extension is the parameter SAR_FINAL_SEXT. -/
def execSar (ra : Reg) (s : State) : Result :=
  let r := shiftRightSigned64 (s.x ra) s.shiftCount
  finishZN ra (if s.params.sarFinalSext then sext s.operandWidth r else r) s

/-- The low and high words of a 64-bit product (R127, w = 64): a product that fits in 64 bits with its sign
extension, else its magnitude split in two words and, where it is negative, negated as the parameter
MUL64_NEG_SPLIT says. -/
def mul64Words (split : Mul64NegSplit) (p : Int) : BitVec 64 × BitVec 64 :=
  if -2 ^ 63 ≤ p ∧ p ≤ 2 ^ 63 - 1 then
    (BitVec.ofInt 64 p, if p < 0 then 0xFFFFFFFFFFFFFFFF#64 else 0#64)
  else
    let m := p.natAbs
    let mlo := m % 2 ^ 64
    let mhi := m / 2 ^ 64
    if p > 0 then (BitVec.ofNat 64 mlo, BitVec.ofNat 64 mhi)
    else match split with
      | .wide =>
        let whole := (2 ^ 128 - m) % 2 ^ 128
        (BitVec.ofNat 64 (whole % 2 ^ 64), BitVec.ofNat 64 (whole / 2 ^ 64))
      | .halves => (BitVec.ofNat 64 ((2 ^ 64 - mlo) % 2 ^ 64), BitVec.ofNat 64 ((2 ^ 64 - mhi) % 2 ^ 64))

/-- MULS (R127). -/
def execMuls (ra rb : Reg) (s : State) : Result :=
  let p := (s.x ra).toInt * (s.x rb).toInt
  if s.operandWidth ≤ 32 then finishZN ra (BitVec.ofInt 64 p) s
  else
    let words := mul64Words s.params.mul64NegSplit p
    let lo := words.1
    let hi := words.2
    finish (((s.setTwo ra rb lo hi).putFlag .z (lo == 0#64 && hi == 0#64)).putFlag .n hi.msb) 0#64

/-- Quotient and remainder of a truncating division by a divisor that is not 0 (R128). -/
def divWords (sa sb : Int) : Int × Int :=
  if sa = -2 ^ 63 ∧ sb = -1 then (-2 ^ 63, 0)
  else
    let qv := sa.sign * sb.sign * (sa.natAbs / sb.natAbs : Nat)
    (qv, sa - qv * sb)

/-- DIVS (R128). -/
def execDivs (ra rb : Reg) (s : State) : Result :=
  if s.x rb = 0#64 then raise .divisionByZero s
  else
    let words := divWords (s.x ra).toInt (s.x rb).toInt
    let qv := words.1
    let rv := words.2
    finish ((((s.setTwo ra rb (BitVec.ofInt 64 qv) (BitVec.ofInt 64 rv)).putFlag .z (qv == 0)).putFlag .n
      (decide (qv < 0))).putFlag .v (decide (rv < 0))) 0#64

/-- SEXT (R117): the width is the field W's, and no flag is written. -/
def execSext (ra : Reg) (w : BitVec 2) (s : State) : Result :=
  finish (s.setX ra (sext (widthOf w.toNat) (s.x ra))) 0#64

end Sys2Proof.Machine
end

