-- ==== Sys2Proof/Machine/RegisterAccess.lean ====
section
/-! DEFINITION. The general-register setters and accessors (42_register_access.md). None reads or writes SW (R134). -/

namespace Sys2Proof.Machine

/-- A setter of width `n` (42_register_access.md R135): `x[RA] <- sext_n(d[n-1:0])`. -/
def setRegister (n : Nat) (ra : Reg) (s : State) : Result := finish (s.setX ra (sext n s.d)) 0#64

/-- An unsigned accessor of width `n` (R136): `q <- zext_n(x[RA])`. -/
def readUnsigned (n : Nat) (ra : Reg) (s : State) : Result := finish s (zext n (s.x ra))

/-- A signed accessor of width `n` (R136): `q <- sext_n(x[RA])`. -/
def readSigned (n : Nat) (ra : Reg) (s : State) : Result := finish s (sext n (s.x ra))

/-- SETU8 (R137). -/
def execSetu8 (ra : Reg) (s : State) : Result := setRegister 8 ra s

/-- SETU16 (R138). -/
def execSetu16 (ra : Reg) (s : State) : Result := setRegister 16 ra s

/-- SETU32 (R139). -/
def execSetu32 (ra : Reg) (s : State) : Result := setRegister 32 ra s

/-- SETU64 (R140): the pattern as supplied. -/
def execSetu64 (ra : Reg) (s : State) : Result := finish (s.setX ra s.d) 0#64

/-- SETI8 (R141). -/
def execSeti8 (ra : Reg) (s : State) : Result := setRegister 8 ra s

/-- SETI16 (R142). -/
def execSeti16 (ra : Reg) (s : State) : Result := setRegister 16 ra s

/-- SETI32 (R143). -/
def execSeti32 (ra : Reg) (s : State) : Result := setRegister 32 ra s

/-- SETI64 (R144): the pattern as supplied. -/
def execSeti64 (ra : Reg) (s : State) : Result := finish (s.setX ra s.d) 0#64

/-- GETU8 (R145). -/
def execGetu8 (ra : Reg) (s : State) : Result := readUnsigned 8 ra s

/-- GETU16 (R146). -/
def execGetu16 (ra : Reg) (s : State) : Result := readUnsigned 16 ra s

/-- GETU32 (R147). -/
def execGetu32 (ra : Reg) (s : State) : Result := readUnsigned 32 ra s

/-- GETU64 (R148): the full pattern. -/
def execGetu64 (ra : Reg) (s : State) : Result := finish s (s.x ra)

/-- GETI8 (R149). -/
def execGeti8 (ra : Reg) (s : State) : Result := readSigned 8 ra s

/-- GETI16 (R150). -/
def execGeti16 (ra : Reg) (s : State) : Result := readSigned 16 ra s

/-- GETI32 (R151). -/
def execGeti32 (ra : Reg) (s : State) : Result := readSigned 32 ra s

/-- GETI64 (R152): the full pattern. -/
def execGeti64 (ra : Reg) (s : State) : Result := finish s (s.x ra)

end Sys2Proof.Machine
end

