-- ==== Sys2Proof/Machine/RegisterFile.lean ====
section
/-! DEFINITION. The register-file commands (44_register_file.md). -/

namespace Sys2Proof.Machine

/-- RFRD (R165); F > 14 is illegal (30_encoding.md R70). -/
def execRfrd (f : BitVec 8) (s : State) : Result :=
  match sprNumbered f with
  | none => raise .illegalCommand s
  | some n => finish s (s.spr n)

/-- RFWR (R166); F > 14 is illegal (30_encoding.md R70). -/
def execRfwr (f : BitVec 8) (s : State) : Result :=
  match sprNumbered f with
  | none => raise .illegalCommand s
  | some n => finish (s.setSpr n s.d) 0#64

/-- RESET (R167): the RegisterFile alone; the Stack unit stays (10_state.md R46). -/
def execReset (s : State) : Result := finish (s.setRf RegisterFile.reset) 0#64

end Sys2Proof.Machine
end

