-- ==== Sys2Proof/Machine/Stack.lean ====
section
/-! DEFINITION. The stack commands (43_stack.md). They read and write the Stack unit alone (R153). -/

namespace Sys2Proof.Machine

/-- PUSH8 (R156). -/
def execPush8 (s : State) : Result := pushBytes 1 s

/-- PUSH16 (R157). -/
def execPush16 (s : State) : Result := pushBytes 2 s

/-- PUSH32 (R158). -/
def execPush32 (s : State) : Result := pushBytes 4 s

/-- PUSH64 (R159). -/
def execPush64 (s : State) : Result := pushBytes 8 s

/-- POP8 (R160). -/
def execPop8 (s : State) : Result := popBytes 1 s

/-- POP16 (R161). -/
def execPop16 (s : State) : Result := popBytes 2 s

/-- POP32 (R162). -/
def execPop32 (s : State) : Result := popBytes 4 s

/-- POP64 (R163). -/
def execPop64 (s : State) : Result := popBytes 8 s

end Sys2Proof.Machine
end

