-- ==== Sys2Proof/Machine/StatusWord.lean ====
section
/-! DEFINITION. The status word commands (40_status_word.md). -/

namespace Sys2Proof.Machine

/-- SWRD (R78): the whole status word, zero-extended. -/
def execSwrd (s : State) : Result := finish s (s.sw.setWidth 64)

/-- SETC (R80). -/
def execSetc (s : State) : Result := writeFlag .c true s

/-- CLRC (R81). -/
def execClrc (s : State) : Result := writeFlag .c false s

/-- GETC (R82). -/
def execGetc (s : State) : Result := readField .c s

/-- SETV (R83). -/
def execSetv (s : State) : Result := writeFlag .v true s

/-- CLRV (R84). -/
def execClrv (s : State) : Result := writeFlag .v false s

/-- GETV (R85). -/
def execGetv (s : State) : Result := readField .v s

/-- SETZ (R86). -/
def execSetz (s : State) : Result := writeFlag .z true s

/-- CLRZ (R87). -/
def execClrz (s : State) : Result := writeFlag .z false s

/-- GETZ (R88). -/
def execGetz (s : State) : Result := readField .z s

/-- SETN (R89). -/
def execSetn (s : State) : Result := writeFlag .n true s

/-- CLRN (R90). -/
def execClrn (s : State) : Result := writeFlag .n false s

/-- GETN (R91). -/
def execGetn (s : State) : Result := readField .n s

/-- SETID (R92). -/
def execSetid (s : State) : Result := writeFlag .id true s

/-- CLRID (R93). -/
def execClrid (s : State) : Result := writeFlag .id false s

/-- GETID (R94). -/
def execGetid (s : State) : Result := readField .id s

/-- SELAM (R96). -/
def execSelam (s : State) : Result := selectField .am s

/-- GETAM (R97). -/
def execGetam (s : State) : Result := readField .am s

/-- SELRS (R98). -/
def execSelrs (s : State) : Result := selectField .rs s

/-- GETRS (R99). -/
def execGetrs (s : State) : Result := readField .rs s

/-- SELPS (R100). -/
def execSelps (s : State) : Result := selectField .ps s

/-- GETPS (R101). -/
def execGetps (s : State) : Result := readField .ps s

/-- SELCS (R102). -/
def execSelcs (s : State) : Result := selectField .cs s

/-- GETCS (R103). -/
def execGetcs (s : State) : Result := readField .cs s

/-- SELOS (R104). -/
def execSelos (s : State) : Result := selectField .os s

/-- GETOS (R105). -/
def execGetos (s : State) : Result := readField .os s

/-- SELMM (R106). -/
def execSelmm (s : State) : Result := selectField .mm s

/-- GETMM (R107). -/
def execGetmm (s : State) : Result := readField .mm s

/-- SETSYS (R108). -/
def execSetsys (s : State) : Result := writeByteField .sys s

/-- GETSYS (R109). -/
def execGetsys (s : State) : Result := readField .sys s

/-- SETUSR (R110). -/
def execSetusr (s : State) : Result := writeByteField .usr s

/-- GETUSR (R111). -/
def execGetusr (s : State) : Result := readField .usr s

end Sys2Proof.Machine
end

