-- ==== Sys2Proof/Machine/Dispatch.lean ====
section
/-! DEFINITION. One arm per command, each one direct call of its meaning. -/

namespace Sys2Proof.Machine

def exec (i : Instr) (s : State) : Host.Outcome State Fault Refusal :=
  match i with
  | .add ra rb ci => Sys2Proof.Machine.execAdd ra rb ci s
  | .sub ra rb ci => Sys2Proof.Machine.execSub ra rb ci s
  | .and ra rb => Sys2Proof.Machine.execAnd ra rb s
  | .or ra rb => Sys2Proof.Machine.execOr ra rb s
  | .xor ra rb => Sys2Proof.Machine.execXor ra rb s
  | .cmp ra rb => Sys2Proof.Machine.execCmp ra rb s
  | .shl ra => Sys2Proof.Machine.execShl ra s
  | .shr ra => Sys2Proof.Machine.execShr ra s
  | .sar ra => Sys2Proof.Machine.execSar ra s
  | .muls ra rb => Sys2Proof.Machine.execMuls ra rb s
  | .divs ra rb => Sys2Proof.Machine.execDivs ra rb s
  | .sext ra w => Sys2Proof.Machine.execSext ra w s
  | .setu8 ra => Sys2Proof.Machine.execSetu8 ra s
  | .setu16 ra => Sys2Proof.Machine.execSetu16 ra s
  | .setu32 ra => Sys2Proof.Machine.execSetu32 ra s
  | .setu64 ra => Sys2Proof.Machine.execSetu64 ra s
  | .seti8 ra => Sys2Proof.Machine.execSeti8 ra s
  | .seti16 ra => Sys2Proof.Machine.execSeti16 ra s
  | .seti32 ra => Sys2Proof.Machine.execSeti32 ra s
  | .seti64 ra => Sys2Proof.Machine.execSeti64 ra s
  | .getu8 ra => Sys2Proof.Machine.execGetu8 ra s
  | .getu16 ra => Sys2Proof.Machine.execGetu16 ra s
  | .getu32 ra => Sys2Proof.Machine.execGetu32 ra s
  | .getu64 ra => Sys2Proof.Machine.execGetu64 ra s
  | .geti8 ra => Sys2Proof.Machine.execGeti8 ra s
  | .geti16 ra => Sys2Proof.Machine.execGeti16 ra s
  | .geti32 ra => Sys2Proof.Machine.execGeti32 ra s
  | .geti64 ra => Sys2Proof.Machine.execGeti64 ra s
  | .swrd => Sys2Proof.Machine.execSwrd s
  | .setc => Sys2Proof.Machine.execSetc s
  | .clrc => Sys2Proof.Machine.execClrc s
  | .getc => Sys2Proof.Machine.execGetc s
  | .setv => Sys2Proof.Machine.execSetv s
  | .clrv => Sys2Proof.Machine.execClrv s
  | .getv => Sys2Proof.Machine.execGetv s
  | .setz => Sys2Proof.Machine.execSetz s
  | .clrz => Sys2Proof.Machine.execClrz s
  | .getz => Sys2Proof.Machine.execGetz s
  | .setn => Sys2Proof.Machine.execSetn s
  | .clrn => Sys2Proof.Machine.execClrn s
  | .getn => Sys2Proof.Machine.execGetn s
  | .setid => Sys2Proof.Machine.execSetid s
  | .clrid => Sys2Proof.Machine.execClrid s
  | .getid => Sys2Proof.Machine.execGetid s
  | .selam => Sys2Proof.Machine.execSelam s
  | .getam => Sys2Proof.Machine.execGetam s
  | .selrs => Sys2Proof.Machine.execSelrs s
  | .getrs => Sys2Proof.Machine.execGetrs s
  | .selps => Sys2Proof.Machine.execSelps s
  | .getps => Sys2Proof.Machine.execGetps s
  | .selcs => Sys2Proof.Machine.execSelcs s
  | .getcs => Sys2Proof.Machine.execGetcs s
  | .selos => Sys2Proof.Machine.execSelos s
  | .getos => Sys2Proof.Machine.execGetos s
  | .selmm => Sys2Proof.Machine.execSelmm s
  | .getmm => Sys2Proof.Machine.execGetmm s
  | .setsys => Sys2Proof.Machine.execSetsys s
  | .getsys => Sys2Proof.Machine.execGetsys s
  | .setusr => Sys2Proof.Machine.execSetusr s
  | .getusr => Sys2Proof.Machine.execGetusr s
  | .rfrd f => Sys2Proof.Machine.execRfrd f s
  | .rfwr f => Sys2Proof.Machine.execRfwr f s
  | .reset => Sys2Proof.Machine.execReset s
  | .push8 => Sys2Proof.Machine.execPush8 s
  | .push16 => Sys2Proof.Machine.execPush16 s
  | .push32 => Sys2Proof.Machine.execPush32 s
  | .push64 => Sys2Proof.Machine.execPush64 s
  | .pop8 => Sys2Proof.Machine.execPop8 s
  | .pop16 => Sys2Proof.Machine.execPop16 s
  | .pop32 => Sys2Proof.Machine.execPop32 s
  | .pop64 => Sys2Proof.Machine.execPop64 s

end Sys2Proof.Machine
end

