-- ==== Sys2Proof/Machine/Step.lean ====
section
/-! DEFINITION. One step of the block: one command at its port (30_encoding.md R64). -/

namespace Sys2Proof.Machine

/-- Decoding comes before any part of a command executes (30_encoding.md R74; 60_exceptions.md R176). -/
def runCommand (cmd : BitVec 32) (s : State) : Host.Outcome State Fault Refusal :=
  match decode cmd with
  | .error _ => raise .illegalCommand s
  | .ok i => exec i s

/-- The block executes the next command the executor presents; where none is pending nothing changes, for the
state changes only by commands (00_scope.md R18; DESIGN CHOICE, assumption log entry 2). -/
def step (s : State) : Host.Outcome State Fault Refusal :=
  match s.fetch with
  | none => .next s
  | some (cmd, at_port) => runCommand cmd at_port

/-- `s` with a command word at the place of the next one, its data input and draw unchanged (assumption log,
entry 1). -/
def State.withFetchWord (s : State) (nbits w : Nat) : State :=
  s.presentWord (BitVec.ofNat 32 (w % 2 ^ nbits))

end Sys2Proof.Machine
end

