-- ==== Sys2Proof/Safety.lean ====
section
/-! DEFINITION. What the claims speak of: how a command goes through, what it leaves as it was, the invariant of
the block, and the spec's views of a command word and of the status word, written out from the spec's text
and not from the model's own accessors. -/

namespace Sys2Proof.Machine

/-- The command goes through: a next state `t`, `q` driven, `err` None (00_scope.md R15). -/
def Completes (o : Result) (q : BitVec 64) (t : State) : Prop :=
  o = .next t ∧ t.q = q ∧ t.err = .noError

/-- `t` is `s` with `q = 0` and `err = e` and nothing else changed: what a `raise` leaves (00_scope.md R15). -/
def OnlyReports (e : ErrorCode) (s t : State) : Prop := t = { s with q := 0#64, err := e }

/-! ## Frames -/

/-- Every general register outside `written` is as it was. -/
def SameRegsExcept (written : List Reg) (s t : State) : Prop := ∀ r, r ∉ written → t.x r = s.x r

/-- Every special-purpose register is as it was. -/
def SameSprs (s t : State) : Prop := ∀ n, t.spr n = s.spr n

/-- Every bit of SW outside `bits` is as it was. -/
def SameSwExcept (bits : List Nat) (s t : State) : Prop :=
  ∀ i, i < 32 → i ∉ bits → t.sw.getLsbD i = s.sw.getLsbD i

/-- The Stack unit's pointer and every byte of its buffer are as they were. -/
def SameStack (s t : State) : Prop := t.stk.ptr = s.stk.ptr ∧ ∀ k, t.byteAt k = s.byteAt k

/-- The port's inputs, those still to come, and the parameters are as they were. -/
def SameInputs (s t : State) : Prop :=
  t.d = s.d ∧ t.draw = s.draw ∧ t.pending = s.pending ∧ t.params = s.params

/-- Nothing but general registers in `written`, status-word bits in `bits` and the outputs may differ. -/
def OnlyWrites (written : List Reg) (bits : List Nat) (s t : State) : Prop :=
  SameRegsExcept written s t ∧ SameSwExcept bits s t ∧ SameSprs s t ∧ SameStack s t ∧ SameInputs s t

/-! ## The spec's views -/

/-- Bit `i` of the status word (10_state.md R21). -/
def swBit (i : Nat) (s : State) : Bool := s.sw.getLsbD i

/-- `SW[lo+width-1 : lo]` (10_state.md R21). -/
def swBits (lo width : Nat) (s : State) : Nat := s.sw.toNat / 2 ^ lo % 2 ^ width

/-- `w(SW.OS) = 8 * 2^OS`, OS being SW[19:18] (00_scope.md R11). -/
def widthNow (s : State) : Nat := 8 * 2 ^ swBits 18 2 s

/-- `r` is `sext_n` of `v`: bits n-1..0 are those of `v`, every higher bit equals `v[n-1]` (00_scope.md R12). -/
def IsSext (n : Nat) (v r : BitVec 64) : Prop :=
  ∀ i, i < 64 → r.getLsbD i = v.getLsbD (min i (n - 1))

/-- `r` is `zext_n` of `v` (00_scope.md R12). -/
def IsZext (n : Nat) (v r : BitVec 64) : Prop := r.toNat = v.toNat % 2 ^ n

/-- `OP<<24 | RA<<22 | RB<<20 | CI<<18 | W<<16 | F<<8` (30_encoding.md R66). -/
def commandWord (op ra rb ci w f : Nat) : BitVec 32 :=
  BitVec.ofNat 32 (op * 2 ^ 24 + ra * 2 ^ 22 + rb * 2 ^ 20 + ci * 2 ^ 18 + w * 2 ^ 16 + f * 2 ^ 8)

/-- A register's index (10_state.md R39). -/
def regNumber (r : Reg) : Nat :=
  match r with
  | .r0 => 0
  | .r1 => 1
  | .r2 => 2
  | .r3 => 3

/-- The registers F = 0 to 14 name, with their widths (10_state.md R41). -/
def sprTable : List (Nat × Spr × Nat) :=
  [(0, .ptr0, 32), (1, .ptr1, 32), (2, .ofs0, 16), (3, .ofs1, 16), (4, .ix0, 16), (5, .ix1, 16),
   (6, .ixs0, 16), (7, .ixs1, 16), (8, .cnt0, 32), (9, .cnt1, 32), (10, .cnts0, 16), (11, .cnts1, 16),
   (12, .pc, 32), (13, .sb, 32), (14, .sp, 16)]

/-- Byte `j` of a value, 0 the least significant (20_memory.md R51). -/
def byteOf (v : BitVec 64) (j : Nat) : Byte := BitVec.ofNat 8 (v.toNat / 256 ^ j)

/-! ## The invariant -/

/-- The parameters are legal (00_scope.md R8), the pointer lies between -1 and the top bound (10_state.md R45;
43_stack.md R155), and the buffer's list is canonical and holds no index past the buffer (20_memory.md R49). -/
structure BlockInv (s : State) : Prop where
  params_legal : s.params.Legal
  ptr_low : -1 ≤ s.stkPtr
  ptr_high : s.stkPtr ≤ s.params.stkTop.toInt
  mem_wf : Memory.wf s.stk.mem = true
  mem_within : Memory.within s.params.stkLen s.stk.mem = true

/-- The state a step leaves, also where the run stops on a fatal error: the block itself keeps accepting
commands (60_exceptions.md R175, R179). -/
def blockAfter (o : Result) : Option State :=
  match o with
  | .next t => some t
  | .fault (.invalidFieldValue t) => some t
  | .fault (.illegalCommand t) => some t
  | .fault (.noSuchByte _) => none
  | .refused _ => none

/-- The bytes on the stack, the one at `ptr + 1` first, up to the top bound (43_stack.md R155). -/
def State.stackBytes (s : State) : List Byte :=
  (List.range (s.params.stkTop.toInt - s.stkPtr).toNat).map fun j => s.byteAt ((s.stkPtr + 1).toNat + j)

end Sys2Proof.Machine
end

