-- ==== Sys2Proof/Certificates/Slice0/Obligations.lean ====
section
/-! DEFINITION. The statements for the provers, each a `def Obligations.<Name> : Prop`. The rules they formalise are
named in their docstrings; the tables before them are the spec's, written out. -/

open Sys2Proof Sys2Proof.Machine

/-! ## The spec's tables -/

/-- SETf: the command, its OP and the flag's bit (40_status_word.md R80, R83, R86, R89, R92). -/
def Sys2Proof.Spec.setFlagRows : List (Instr × Nat × Nat) :=
  [(.setc, 0x31, 31), (.setv, 0x34, 30), (.setz, 0x37, 29), (.setn, 0x3A, 28), (.setid, 0x3D, 24)]

/-- CLRf (R81, R84, R87, R90, R93). -/
def Sys2Proof.Spec.clearFlagRows : List (Instr × Nat × Nat) :=
  [(.clrc, 0x32, 31), (.clrv, 0x35, 30), (.clrz, 0x38, 29), (.clrn, 0x3B, 28), (.clrid, 0x3E, 24)]

/-- GETf of a flag (R82, R85, R88, R91, R94). -/
def Sys2Proof.Spec.getFlagRows : List (Instr × Nat × Nat) :=
  [(.getc, 0x33, 31), (.getv, 0x36, 30), (.getz, 0x39, 29), (.getn, 0x3C, 28), (.getid, 0x3F, 24)]

/-- SELf: the command, its OP, the field's lowest bit and width, the largest legal value (R96, R98, R100, R102,
R104, R106; 60_exceptions.md R169). -/
def Sys2Proof.Spec.selectRows : List (Instr × Nat × Nat × Nat × Nat) :=
  [(.selam, 0x40, 25, 3, 7), (.selrs, 0x42, 22, 2, 3), (.selps, 0x44, 21, 1, 1),
   (.selcs, 0x46, 20, 1, 1), (.selos, 0x48, 18, 2, 3), (.selmm, 0x4A, 16, 2, 3)]

/-- GETf of a selector or byte: the command, its OP, the field's lowest bit and width (R97, R99, R101, R103, R105,
R107, R109, R111). -/
def Sys2Proof.Spec.getFieldRows : List (Instr × Nat × Nat × Nat) :=
  [(.getam, 0x41, 25, 3), (.getrs, 0x43, 22, 2), (.getps, 0x45, 21, 1), (.getcs, 0x47, 20, 1),
   (.getos, 0x49, 18, 2), (.getmm, 0x4B, 16, 2), (.getsys, 0x4D, 8, 8), (.getusr, 0x4F, 0, 8)]

/-- SETSYS and SETUSR: the command, its OP, the byte's lowest bit (R108, R110). -/
def Sys2Proof.Spec.setByteRows : List (Instr × Nat × Nat) := [(.setsys, 0x4C, 8), (.setusr, 0x4E, 0)]

/-- The setters: the command, its OP, its width (42_register_access.md R137 to R144). -/
def Sys2Proof.Spec.setterRows : List ((Reg → Instr) × Nat × Nat) :=
  [(.setu8, 0x20, 8), (.setu16, 0x21, 16), (.setu32, 0x22, 32), (.setu64, 0x23, 64),
   (.seti8, 0x24, 8), (.seti16, 0x25, 16), (.seti32, 0x26, 32), (.seti64, 0x27, 64)]

/-- The unsigned accessors (R145 to R148). -/
def Sys2Proof.Spec.unsignedRows : List ((Reg → Instr) × Nat × Nat) :=
  [(.getu8, 0x28, 8), (.getu16, 0x29, 16), (.getu32, 0x2A, 32), (.getu64, 0x2B, 64)]

/-- The signed accessors (R149 to R152). -/
def Sys2Proof.Spec.signedRows : List ((Reg → Instr) × Nat × Nat) :=
  [(.geti8, 0x2C, 8), (.geti16, 0x2D, 16), (.geti32, 0x2E, 32), (.geti64, 0x2F, 64)]

/-- PUSHn: the command, its OP, its bytes (43_stack.md R156 to R159). -/
def Sys2Proof.Spec.pushRows : List (Instr × Nat × Nat) :=
  [(.push8, 0x60, 1), (.push16, 0x61, 2), (.push32, 0x62, 4), (.push64, 0x63, 8)]

/-- POPn (R160 to R163). -/
def Sys2Proof.Spec.popRows : List (Instr × Nat × Nat) :=
  [(.pop8, 0x64, 1), (.pop16, 0x65, 2), (.pop32, 0x66, 4), (.pop64, 0x67, 8)]

/-- The opcode map as OP and the mask of the bits that are fixed beside it (30_encoding.md R72, R67). -/
def Sys2Proof.Spec.opcodeRows : List (Nat × BitVec 32) :=
  [(0x10, 0x0003FFFF#32), (0x11, 0x0003FFFF#32), (0x1B, 0x003CFFFF#32), (0x50, 0x00FF00FF#32),
   (0x51, 0x00FF00FF#32)] ++
  [0x12, 0x13, 0x14, 0x15, 0x19, 0x1A].map (fun op => (op, 0x000FFFFF#32)) ++
  ([0x16, 0x17, 0x18] ++ (List.range 16).map (0x20 + ·)).map (fun op => (op, 0x003FFFFF#32)) ++
  ((List.range 32).map (0x30 + ·) ++ [0x52] ++ (List.range 8).map (0x60 + ·)).map
    (fun op => (op, 0x00FFFFFF#32))

/-- A command word 30_encoding.md R74 lets through: OP in the map, every fixed bit 0, CI not 3 in ADD and SUB,
F at most 14 in RFRD and RFWR. -/
def Sys2Proof.Spec.LegalWord (cmd : BitVec 32) : Prop :=
  ∃ row ∈ Spec.opcodeRows, cmd.toNat / 2 ^ 24 = row.1 ∧ cmd &&& row.2 = 0#32 ∧
    ((row.1 = 0x10 ∨ row.1 = 0x11) → cmd.toNat / 2 ^ 18 % 4 ≠ 3) ∧
    ((row.1 = 0x50 ∨ row.1 = 0x51) → cmd.toNat / 2 ^ 8 % 256 ≤ 14)

/-- The carry-in CI selects (30_encoding.md R68). -/
def Sys2Proof.Spec.carryIn (ci : BitVec 2) (s : State) : Nat :=
  if ci = 0#2 then 0 else if ci = 1#2 then 1 else (swBit 31 s).toNat

/-- The borrow-in of SUB (41_alu.md R119). -/
def Sys2Proof.Spec.borrowIn (ci : BitVec 2) (s : State) : Nat :=
  match s.params.subBorrow with
  | .direct => Spec.carryIn ci s
  | .inverted => 1 - Spec.carryIn ci s

/-- A form with CI = 3 or F > 14: the decoder rejects its word (30_encoding.md R68, R70), and executing the form, which no
word decodes to, raises IllegalCommand and changes nothing (the model's choice, log entries 7 and 11). -/
def Sys2Proof.Spec.IllegalForm (cmd : BitVec 32) (i : Instr) (s : State) : Prop :=
  (∃ e, decode cmd = .error e) ∧ ∃ t, exec i s = .fault (.illegalCommand t) ∧ OnlyReports .illegalCommand s t

/-- A command that leaves `sext_w(v)` in RA, sets Z and N from it and changes nothing else
(41_alu.md R120 to R125). -/
def Sys2Proof.Spec.WritesExtended (i : Instr) (ra : Reg) (v : BitVec 64) (s : State) : Prop :=
  ∃ t, Completes (exec i s) 0#64 t ∧ IsSext (widthNow s) v (t.x ra) ∧
    swBit 29 t = (t.x ra == 0#64) ∧ swBit 28 t = (t.x ra).msb ∧ OnlyWrites [ra] [29, 28] s t

/-- The 64-bit product's low and high words (41_alu.md R127, w = 64). -/
def Sys2Proof.Spec.ProductWords (split : Mul64NegSplit) (p : Int) (lo hi : BitVec 64) : Prop :=
  if -2 ^ 63 ≤ p ∧ p ≤ 2 ^ 63 - 1 then
    lo.toInt = p ∧ hi = (if p < 0 then 0xFFFFFFFFFFFFFFFF#64 else 0#64)
  else if 0 < p then
    lo.toNat = p.natAbs % 2 ^ 64 ∧ hi.toNat = p.natAbs / 2 ^ 64
  else match split with
    | .wide => hi.toNat * 2 ^ 64 + lo.toNat = (2 ^ 128 - p.natAbs) % 2 ^ 128
    | .halves => lo.toNat = (2 ^ 64 - p.natAbs % 2 ^ 64) % 2 ^ 64 ∧
        hi.toNat = (2 ^ 64 - p.natAbs / 2 ^ 64) % 2 ^ 64

/-- Two results, to RA and to RB; where these are one register, the draw's (00_scope.md R16). -/
def Sys2Proof.Spec.TwoResults (ra rb : Reg) (va vb : BitVec 64) (s t : State) : Prop :=
  if ra = rb then t.x ra = (match s.draw with | .aLast => va | .bLast => vb)
  else t.x ra = va ∧ t.x rb = vb

/-- The registers a command may write (10_state.md R40). -/
def Sys2Proof.Spec.writtenRegs (i : Instr) (s : State) : List Reg :=
  match i with
  | .add ra _ _ | .sub ra _ _ | .and ra _ | .or ra _ | .xor ra _ | .shl ra | .shr ra | .sar ra
  | .sext ra _ | .setu8 ra | .setu16 ra | .setu32 ra | .setu64 ra | .seti8 ra | .seti16 ra
  | .seti32 ra | .seti64 ra => [ra]
  | .muls ra rb => if widthNow s = 64 then [ra, rb] else [ra]
  | .divs ra rb => [ra, rb]
  | .reset => [.r0, .r1, .r2, .r3]
  | _ => []

/-- The status-word bits a command may write (10_state.md R24 to R37). -/
def Sys2Proof.Spec.writtenBits (i : Instr) : List Nat :=
  match i with
  | .add _ _ _ | .sub _ _ _ => [31, 30, 29, 28]
  | .and _ _ | .or _ _ | .xor _ _ | .shl _ | .shr _ | .sar _ | .muls _ _ => [29, 28]
  | .cmp _ _ => [31, 30, 29]
  | .divs _ _ => [30, 29, 28]
  | .setc | .clrc => [31]
  | .setv | .clrv => [30]
  | .setz | .clrz => [29]
  | .setn | .clrn => [28]
  | .setid | .clrid => [24]
  | .selam => [27, 26, 25]
  | .selrs => [23, 22]
  | .selps => [21]
  | .selcs => [20]
  | .selos => [19, 18]
  | .selmm => [17, 16]
  | .setsys => [15, 14, 13, 12, 11, 10, 9, 8]
  | .setusr => [7, 6, 5, 4, 3, 2, 1, 0]
  | .reset => List.range 32
  | _ => []

/-- The errors a decoded command may report (60_exceptions.md R169 to R172, R176). -/
def Sys2Proof.Spec.ownErrors (i : Instr) : List ErrorCode :=
  match i with
  | .selam | .selrs | .selps | .selcs | .selos | .selmm => [.invalidFieldValue]
  | .divs _ _ => [.divisionByZero]
  | .push8 | .push16 | .push32 | .push64 => [.stackOverflow]
  | .pop8 | .pop16 | .pop32 | .pop64 => [.stackUnderflow]
  | _ => []

/-- How many low bits of the data input a command takes (30_encoding.md R71). -/
def Sys2Proof.Spec.inputBits (i : Instr) : Nat :=
  match i with
  | .shl _ | .shr _ | .sar _ | .setu64 _ | .seti64 _ | .selam | .selrs | .selps | .selcs | .selos
  | .selmm | .push64 => 64
  | .setu32 _ | .seti32 _ | .push32 => 32
  | .setu16 _ | .seti16 _ | .push16 => 16
  | .setu8 _ | .seti8 _ | .push8 | .setsys | .setusr => 8
  | .rfwr f => if f = 0#8 ∨ f = 1#8 ∨ f = 8#8 ∨ f = 9#8 ∨ f = 12#8 ∨ f = 13#8 then 32 else 16
  | _ => 0

/-- The commands that drive a part of SW on `q` (40_status_word.md). -/
def Sys2Proof.Spec.readsStatus : List Instr :=
  [.swrd, .getc, .getv, .getz, .getn, .getid, .getam, .getrs, .getps, .getcs, .getos, .getmm, .getsys,
   .getusr]

/-! ## The machine -/

/-- 10_state.md R48 and R46: what creation leaves, and that the command RESET leaves the same RegisterFile and the Stack
unit as it was. `q`, `err`, `d`, `draw` and `pending` at creation are the model's choices (log entries 1, 3,
6) and are not claimed. -/
def Obligations.CreationLeavesResetValues : Prop :=
  ∀ (p : Params) (stkInit : Memory),
    (∀ r, (State.create p stkInit).x r = 0#64) ∧ (State.create p stkInit).sw = 0#32 ∧
    (∀ n, n ≠ .sb → n ≠ .sp → (State.create p stkInit).spr n = 0#64) ∧
    (State.create p stkInit).rf.sb = 0xFFFE0000#32 ∧ (State.create p stkInit).rf.sp = 0xFFFF#16 ∧
    (State.create p stkInit).stk.ptr = p.stkTop ∧ (State.create p stkInit).params = p ∧
    (∀ k, (State.create p stkInit).byteAt k = memRead stkInit k) ∧
    Params.default.stkTop.toInt = (Params.default.stkLen : Int) - 1 ∧
    ∀ s : State, ∃ t, exec .reset s = .next t ∧ t.rf = (State.create p stkInit).rf ∧ t.stk = s.stk

/-- 44_register_file.md R167: RESET. -/
def Obligations.ResetCommandResetsTheRegisterFileAlone : Prop :=
  decode 0x52000000#32 = .ok .reset ∧
  ∀ s : State, ∃ t, Completes (exec .reset s) 0#64 t ∧ (∀ r, t.x r = 0#64) ∧ t.sw = 0#32 ∧
    (∀ n, n ≠ .sb → n ≠ .sp → t.spr n = 0#64) ∧ t.rf.sb = 0xFFFE0000#32 ∧ t.rf.sp = 0xFFFF#16 ∧
    SameStack s t ∧ SameInputs s t

/-- 30_encoding.md R64, R74: a step takes the next inputs at the port and runs the command they decode to. How the
inputs stand in State is the model's choice (log entry 1). -/
def Obligations.StepRunsTheDecodedCommand : Prop :=
  (∀ (s : State) (p : PortInput) (rest : List PortInput) (i : Instr),
    s.pending = p :: rest → decode p.cmd = .ok i →
      step s = exec i { s with d := p.d, draw := p.draw, pending := rest }) ∧
  ∀ (s : State) (cmd : BitVec 32) (i : Instr), s.pending = [] → decode cmd = .ok i →
    step (s.withFetchWord 32 cmd.toNat) = exec i s

/-- With no command pending a step changes nothing: the model's choice, log entry 2 (00_scope.md R18 says that the
state changes only by commands). -/
def Obligations.NothingChangesWithoutACommand : Prop :=
  ∀ s : State, s.pending = [] → step s = .next s

/-- A word that 30_encoding.md R74 does not let through (R67, R68, R70, R73; 60_exceptions.md R173) raises IllegalCommand
and changes nothing. That the compared state has the inputs taken from `pending` is the model's choice (log
entry 1), as is that the fault carries the state (log entry 7). -/
def Obligations.IllegalWordRaisesIllegalCommand : Prop :=
  ∀ (s : State) (p : PortInput) (rest : List PortInput),
    s.pending = p :: rest → ¬ Spec.LegalWord p.cmd →
      ∃ t, step s = .fault (.illegalCommand t) ∧
        OnlyReports .illegalCommand { s with d := p.d, draw := p.draw, pending := rest } t

/-- 30_encoding.md R74: the decoder accepts the legal words and no other. -/
def Obligations.DecoderAcceptsExactlyTheLegalWords : Prop :=
  ∀ cmd : BitVec 32, (∃ i, decode cmd = .ok i) ↔ Spec.LegalWord cmd

/-- Every command's word decodes to it (30_encoding.md R66, R72). -/
def Obligations.DecodeOfEncodeIsTheCommand : Prop :=
  ∀ i : Instr, i.wellFormed = true → decode (encode i) = .ok i

/-- A word that decodes is the word of the command it decodes to, and that command is well-formed
(30_encoding.md R74: a word selects exactly one command). -/
def Obligations.EncodeOfDecodeIsTheWord : Prop :=
  ∀ (cmd : BitVec 32) (i : Instr), decode cmd = .ok i → encode i = cmd ∧ i.wellFormed = true

/-- The words of 95_test_vectors.md decode to the commands it names. -/
def Obligations.SampleWordsDecodeAsTheSpecSays : Prop :=
  decode 0x10780000#32 = .ok (.add .r1 .r3 2#2) ∧ decode 0x11F40000#32 = .ok (.sub .r3 .r3 1#2) ∧
  decode 0x14500000#32 = .ok (.xor .r1 .r1) ∧ decode 0x1AB00000#32 = .ok (.divs .r2 .r3) ∧
  decode 0x1B020000#32 = .ok (.sext .r0 2#2) ∧ decode 0x27C00000#32 = .ok (.seti64 .r3) ∧
  decode 0x2E800000#32 = .ok (.geti32 .r2) ∧ decode 0x48000000#32 = .ok .selos ∧
  decode 0x50000D00#32 = .ok (.rfrd 13#8) ∧ decode 0x51000C00#32 = .ok (.rfwr 12#8) ∧
  decode 0x63000000#32 = .ok .push64 ∧ decode 0x64000000#32 = .ok .pop8 ∧
  decode 0x1C000000#32 = .error .reservedOpcode ∧ decode 0x10000001#32 = .error .reservedBits ∧
  decode 0x12040000#32 = .error .unusedField ∧ decode 0x100C0000#32 = .error .illegalCarrySelect ∧
  decode 0x50000F00#32 = .error .illegalRegisterNumber

/-! ## Status word commands -/

/-- 40_status_word.md R80, R83, R86, R89, R92: SETf. -/
def Obligations.SetFlagSetsItsBitAlone : Prop :=
  ∀ e ∈ Spec.setFlagRows, decode (commandWord e.2.1 0 0 0 0 0) = .ok e.1 ∧
    ∀ s : State, ∃ t, Completes (exec e.1 s) 0#64 t ∧ swBit e.2.2 t = true ∧ OnlyWrites [] [e.2.2] s t

/-- 40_status_word.md R81, R84, R87, R90, R93: CLRf. -/
def Obligations.ClearFlagClearsItsBitAlone : Prop :=
  ∀ e ∈ Spec.clearFlagRows, decode (commandWord e.2.1 0 0 0 0 0) = .ok e.1 ∧
    ∀ s : State, ∃ t, Completes (exec e.1 s) 0#64 t ∧ swBit e.2.2 t = false ∧ OnlyWrites [] [e.2.2] s t

/-- 40_status_word.md R82, R85, R88, R91, R94: GETf of a flag. -/
def Obligations.GetFlagDrivesItsBit : Prop :=
  ∀ e ∈ Spec.getFlagRows, decode (commandWord e.2.1 0 0 0 0 0) = .ok e.1 ∧
    ∀ s : State, ∃ t, Completes (exec e.1 s) (if swBit e.2.2 s then 1#64 else 0#64) t ∧
      OnlyWrites [] [] s t

/-- 40_status_word.md R96, R98, R100, R102, R104, R106: SELf, in range and out of it. -/
def Obligations.SelectWritesItsFieldOrFails : Prop :=
  ∀ e ∈ Spec.selectRows, decode (commandWord e.2.1 0 0 0 0 0) = .ok e.1 ∧
    ∀ s : State,
      (s.d.toNat ≤ e.2.2.2.2 → ∃ t, Completes (exec e.1 s) 0#64 t ∧
        swBits e.2.2.1 e.2.2.2.1 t = s.d.toNat ∧
        OnlyWrites [] ((List.range e.2.2.2.1).map (e.2.2.1 + ·)) s t) ∧
      (e.2.2.2.2 < s.d.toNat → ∃ t, exec e.1 s = .fault (.invalidFieldValue t) ∧
        OnlyReports .invalidFieldValue s t)

/-- 40_status_word.md R97, R99, R101, R103, R105, R107, R109, R111: GETf of a selector or byte. -/
def Obligations.GetFieldDrivesItsField : Prop :=
  ∀ e ∈ Spec.getFieldRows, decode (commandWord e.2.1 0 0 0 0 0) = .ok e.1 ∧
    ∀ s : State, ∃ t,
      Completes (exec e.1 s) (BitVec.ofNat 64 (swBits e.2.2.1 e.2.2.2 s)) t ∧ OnlyWrites [] [] s t

/-- 40_status_word.md R108, R110: SETSYS and SETUSR. -/
def Obligations.SetByteWritesItsByteAlone : Prop :=
  ∀ e ∈ Spec.setByteRows, decode (commandWord e.2.1 0 0 0 0 0) = .ok e.1 ∧
    ∀ s : State, ∃ t, Completes (exec e.1 s) 0#64 t ∧ swBits e.2.2 8 t = s.d.toNat % 256 ∧
      OnlyWrites [] ((List.range 8).map (e.2.2 + ·)) s t

/-- 40_status_word.md R78: SWRD. -/
def Obligations.StatusReadDrivesTheWholeWord : Prop :=
  decode 0x30000000#32 = .ok .swrd ∧
  ∀ s : State, ∃ t, Completes (exec .swrd s) (BitVec.ofNat 64 s.sw.toNat) t ∧ OnlyWrites [] [] s t

/-- 40_status_word.md R79, R95: a flag set or cleared, and a field selected, read back as written; the read takes any
inputs. -/
def Obligations.StatusFieldsReadBackAsWritten : Prop :=
  (∀ e ∈ Spec.setFlagRows, ∀ g ∈ Spec.getFlagRows, e.2.2 = g.2.2 → ∀ (s t : State) (d : BitVec 64),
    exec e.1 s = .next t → ∃ u, exec g.1 { t with d := d } = .next u ∧ u.q = 1#64) ∧
  (∀ e ∈ Spec.clearFlagRows, ∀ g ∈ Spec.getFlagRows, e.2.2 = g.2.2 → ∀ (s t : State) (d : BitVec 64),
    exec e.1 s = .next t → ∃ u, exec g.1 { t with d := d } = .next u ∧ u.q = 0#64) ∧
  (∀ e ∈ Spec.selectRows, ∀ g ∈ Spec.getFieldRows, e.2.2.1 = g.2.2.1 → ∀ (s t : State) (d : BitVec 64),
    exec e.1 s = .next t → ∃ u, exec g.1 { t with d := d } = .next u ∧ u.q = s.d)

/-! ## ALU -/

/-- 41_alu.md R118: ADD; CI = 3 is illegal. -/
def Obligations.AddGivesSumFlagsAndFrame : Prop :=
  (∀ ra rb : Reg, ∃ e, decode (commandWord 0x10 (regNumber ra) (regNumber rb) 3 0 0) = .error e) ∧
  ∀ (ra rb : Reg) (ci : BitVec 2) (s : State), ci ≠ 3#2 →
    decode (commandWord 0x10 (regNumber ra) (regNumber rb) ci.toNat 0 0) = .ok (.add ra rb ci) ∧
    ∃ (t : State) (raw : BitVec 64), Completes (exec (.add ra rb ci) s) 0#64 t ∧
      raw.toNat = ((s.x ra).toNat + (s.x rb).toNat + Spec.carryIn ci s) % 2 ^ 64 ∧
      IsSext (widthNow s) raw (t.x ra) ∧
      swBit 31 t = decide (raw.toNat < (s.x ra).toNat) ∧
      swBit 30 t = ((s.x ra).msb == (s.x rb).msb && (t.x ra).msb != (s.x ra).msb) ∧
      swBit 29 t = (t.x ra == 0#64) ∧ swBit 28 t = (t.x ra).msb ∧ OnlyWrites [ra] [31, 30, 29, 28] s t

/-- 41_alu.md R119: SUB, under both values of SUB_BORROW; CI = 3 is illegal. -/
def Obligations.SubGivesDifferenceFlagsAndFrame : Prop :=
  (∀ ra rb : Reg, ∃ e, decode (commandWord 0x11 (regNumber ra) (regNumber rb) 3 0 0) = .error e) ∧
  ∀ (ra rb : Reg) (ci : BitVec 2) (s : State), ci ≠ 3#2 →
    decode (commandWord 0x11 (regNumber ra) (regNumber rb) ci.toNat 0 0) = .ok (.sub ra rb ci) ∧
    ∃ (t : State) (raw : BitVec 64), Completes (exec (.sub ra rb ci) s) 0#64 t ∧
      (raw.toNat : Int) = ((s.x ra).toNat - (s.x rb).toNat - Spec.borrowIn ci s : Int) % 2 ^ 64 ∧
      IsSext (widthNow s) raw (t.x ra) ∧
      swBit 31 t = decide (raw.toNat ≤ (s.x ra).toNat) ∧
      swBit 30 t = ((s.x ra).msb != (s.x rb).msb && (t.x ra).msb != (s.x ra).msb) ∧
      swBit 29 t = (t.x ra == 0#64) ∧ swBit 28 t = (t.x ra).msb ∧ OnlyWrites [ra] [31, 30, 29, 28] s t

/-- 41_alu.md R120, R121, R122: AND, OR, XOR. -/
def Obligations.BitwiseCommandsGiveExtendedResult : Prop :=
  ∀ (ra rb : Reg) (s : State),
    (decode (commandWord 0x12 (regNumber ra) (regNumber rb) 0 0 0) = .ok (.and ra rb) ∧
      ∃ v : BitVec 64, (∀ i, v.getLsbD i = ((s.x ra).getLsbD i && (s.x rb).getLsbD i)) ∧
        Spec.WritesExtended (.and ra rb) ra v s) ∧
    (decode (commandWord 0x13 (regNumber ra) (regNumber rb) 0 0 0) = .ok (.or ra rb) ∧
      ∃ v : BitVec 64, (∀ i, v.getLsbD i = ((s.x ra).getLsbD i || (s.x rb).getLsbD i)) ∧
        Spec.WritesExtended (.or ra rb) ra v s) ∧
    (decode (commandWord 0x14 (regNumber ra) (regNumber rb) 0 0 0) = .ok (.xor ra rb) ∧
      ∃ v : BitVec 64, (∀ i, v.getLsbD i = ((s.x ra).getLsbD i ^^ (s.x rb).getLsbD i)) ∧
        Spec.WritesExtended (.xor ra rb) ra v s)

/-- 41_alu.md R123: CMP. -/
def Obligations.CompareSetsItsThreeFlagsAlone : Prop :=
  ∀ (ra rb : Reg) (s : State),
    decode (commandWord 0x15 (regNumber ra) (regNumber rb) 0 0 0) = .ok (.cmp ra rb) ∧
    ∃ t, Completes (exec (.cmp ra rb) s) 0#64 t ∧
      swBit 31 t = decide ((s.x rb).toNat ≤ (s.x ra).toNat) ∧
      swBit 30 t = ((!(s.x ra).msb && (s.x rb).msb) ||
        ((s.x ra).msb == (s.x rb).msb && decide ((s.x rb).toNat ≤ (s.x ra).toNat))) ∧
      swBit 29 t = (s.x ra == s.x rb) ∧ OnlyWrites [] [31, 30, 29] s t

/-- 41_alu.md R131: CMP's C and V are the unsigned and the signed order, at 64 bits and, for operands canonical at a
width N, at N bits; an inference the spec marks as its own (from R123 and R13). -/
def Obligations.CompareIsTheOrderAtEveryCanonicalWidth : Prop :=
  ∀ (ra rb : Reg) (s : State), ∃ t, exec (.cmp ra rb) s = .next t ∧
    swBit 30 t = decide ((s.x rb).toInt ≤ (s.x ra).toInt) ∧
    swBit 31 t = decide ((s.x rb).toNat ≤ (s.x ra).toNat) ∧
    ∀ n ∈ [8, 16, 32, 64], IsSext n (s.x ra) (s.x ra) → IsSext n (s.x rb) (s.x rb) →
      swBit 30 t = decide (((s.x rb).setWidth n).toInt ≤ ((s.x ra).setWidth n).toInt) ∧
      swBit 31 t = decide (((s.x rb).setWidth n).toNat ≤ ((s.x ra).setWidth n).toNat)

/-- 41_alu.md R130: for operands canonical at the current width, C and V of ADD and SUB are the w-bit carry, no-borrow
and signed overflow, but for the operand all-ones with a carry-in or borrow-in of 1, where C misses it; an inference the spec
marks as its own (from R118, R119 and R13). -/
def Obligations.CarryAndOverflowAgreeAtTheCurrentWidth : Prop :=
  ∀ (ra rb : Reg) (ci : BitVec 2) (s : State), ci ≠ 3#2 →
    IsSext (widthNow s) (s.x ra) (s.x ra) → IsSext (widthNow s) (s.x rb) (s.x rb) →
    ∃ t u, exec (.add ra rb ci) s = .next t ∧ exec (.sub ra rb ci) s = .next u ∧
      (let w := widthNow s
       let a := s.x ra
       let b := s.x rb
       let cin := Spec.carryIn ci s
       let bin := Spec.borrowIn ci s
       swBit 31 t = (if cin = 1 ∧ b = 0xFFFFFFFFFFFFFFFF#64 then false
         else decide (2 ^ w ≤ a.toNat % 2 ^ w + b.toNat % 2 ^ w + cin)) ∧
       swBit 30 t = decide (¬ (-2 ^ (w - 1) ≤ a.toInt + b.toInt + cin ∧
         a.toInt + b.toInt + cin < 2 ^ (w - 1))) ∧
       swBit 31 u = (if bin = 1 ∧ b = 0xFFFFFFFFFFFFFFFF#64 then true
         else decide (b.toNat % 2 ^ w + bin ≤ a.toNat % 2 ^ w)) ∧
       swBit 30 u = decide (¬ (-2 ^ (w - 1) ≤ a.toInt - b.toInt - bin ∧
         a.toInt - b.toInt - bin < 2 ^ (w - 1))))

/-- 41_alu.md R124: SHL, by any count. -/
def Obligations.ShiftLeftGivesExtendedResult : Prop :=
  ∀ (ra : Reg) (s : State),
    decode (commandWord 0x16 (regNumber ra) 0 0 0 0) = .ok (.shl ra) ∧
    ∃ v : BitVec 64, v.toNat = (s.x ra).toNat * 2 ^ s.d.toNat % 2 ^ 64 ∧
      Spec.WritesExtended (.shl ra) ra v s

/-- 41_alu.md R125: SHR, by any count, of the operand zero-extended from the current width. -/
def Obligations.ShiftRightGivesExtendedResult : Prop :=
  ∀ (ra : Reg) (s : State),
    decode (commandWord 0x17 (regNumber ra) 0 0 0 0) = .ok (.shr ra) ∧
    ∃ v : BitVec 64, v.toNat = (s.x ra).toNat % 2 ^ widthNow s / 2 ^ s.d.toNat ∧
      Spec.WritesExtended (.shr ra) ra v s

/-- 41_alu.md R126: SAR is the floor of the signed quotient, with the count cut to 63, and under SAR_FINAL_SEXT that
value extended from the current width; an inference the spec marks as its own (from R126's pseudocode). -/
def Obligations.ArithmeticShiftIsTheFloorOfTheQuotient : Prop :=
  ∀ (ra : Reg) (s : State),
    decode (commandWord 0x18 (regNumber ra) 0 0 0 0) = .ok (.sar ra) ∧
    ∃ (t : State) (r : BitVec 64), Completes (exec (.sar ra) s) 0#64 t ∧
      r.toInt = Int.fdiv (s.x ra).toInt (2 ^ min s.d.toNat 63) ∧
      (if s.params.sarFinalSext then IsSext (widthNow s) r (t.x ra) else t.x ra = r) ∧
      swBit 29 t = (t.x ra == 0#64) ∧ swBit 28 t = (t.x ra).msb ∧ OnlyWrites [ra] [29, 28] s t

/-- 41_alu.md R117: SEXT. -/
def Obligations.SignExtendWritesRegisterAlone : Prop :=
  ∀ (ra : Reg) (w : BitVec 2) (s : State),
    decode (commandWord 0x1B (regNumber ra) 0 0 w.toNat 0) = .ok (.sext ra w) ∧
    ∃ t, Completes (exec (.sext ra w) s) 0#64 t ∧ IsSext (8 * 2 ^ w.toNat) (s.x ra) (t.x ra) ∧
      OnlyWrites [ra] [] s t

/-- 41_alu.md R127, 00_scope.md R16: MULS at every width, under both values of MUL64_NEG_SPLIT and both draws. -/
def Obligations.MultiplyGivesProductFlagsAndFrame : Prop :=
  ∀ (ra rb : Reg) (s : State),
    decode (commandWord 0x19 (regNumber ra) (regNumber rb) 0 0 0) = .ok (.muls ra rb) ∧
    ∃ t, Completes (exec (.muls ra rb) s) 0#64 t ∧
      (if widthNow s ≤ 32 then
        ((t.x ra).toNat : Int) = (s.x ra).toInt * (s.x rb).toInt % 2 ^ 64 ∧
        swBit 29 t = (t.x ra == 0#64) ∧ swBit 28 t = (t.x ra).msb ∧ OnlyWrites [ra] [29, 28] s t
      else ∃ lo hi : BitVec 64,
        Spec.ProductWords s.params.mul64NegSplit ((s.x ra).toInt * (s.x rb).toInt) lo hi ∧
        Spec.TwoResults ra rb lo hi s t ∧
        swBit 29 t = (lo == 0#64 && hi == 0#64) ∧ swBit 28 t = hi.msb ∧
        OnlyWrites [ra, rb] [29, 28] s t)

/-- 41_alu.md R133: at 64 bits under WIDE the two registers hold the exact signed product; below, for canonical operands,
one register does; an inference the spec marks as its own (from R127). -/
def Obligations.MultiplyIsExact : Prop :=
  ∀ (ra rb : Reg) (s : State),
    (widthNow s = 64 → s.params.mul64NegSplit = .wide → ra ≠ rb →
      ∃ t, exec (.muls ra rb) s = .next t ∧
        (t.x rb).toInt * 2 ^ 64 + (t.x ra).toNat = (s.x ra).toInt * (s.x rb).toInt ∧
        swBit 28 t = decide ((s.x ra).toInt * (s.x rb).toInt < 0) ∧
        swBit 29 t = decide ((s.x ra).toInt * (s.x rb).toInt = 0)) ∧
    (widthNow s ≤ 32 → IsSext (widthNow s) (s.x ra) (s.x ra) → IsSext (widthNow s) (s.x rb) (s.x rb) →
      ∃ t, exec (.muls ra rb) s = .next t ∧ (t.x ra).toInt = (s.x ra).toInt * (s.x rb).toInt)

/-- 41_alu.md R128, 00_scope.md R16: DIVS, by zero and not, under both draws. -/
def Obligations.DivideGivesQuotientRemainderAndFlags : Prop :=
  ∀ (ra rb : Reg) (s : State),
    decode (commandWord 0x1A (regNumber ra) (regNumber rb) 0 0 0) = .ok (.divs ra rb) ∧
    (s.x rb = 0#64 → ∃ t, exec (.divs ra rb) s = .next t ∧ OnlyReports .divisionByZero s t) ∧
    (s.x rb ≠ 0#64 → ∃ (t : State) (quot rem : BitVec 64), Completes (exec (.divs ra rb) s) 0#64 t ∧
      (if (s.x ra).toInt = -2 ^ 63 ∧ (s.x rb).toInt = -1 then quot.toInt = -2 ^ 63 ∧ rem.toInt = 0
       else quot.toInt = Int.tdiv (s.x ra).toInt (s.x rb).toInt ∧
         rem.toInt = (s.x ra).toInt - quot.toInt * (s.x rb).toInt) ∧
      Spec.TwoResults ra rb quot rem s t ∧
      swBit 29 t = decide (quot.toInt = 0) ∧ swBit 28 t = decide (quot.toInt < 0) ∧
      swBit 30 t = decide (rem.toInt < 0) ∧ OnlyWrites [ra, rb] [30, 29, 28] s t)

/-- 41_alu.md R132: the laws of quotient and remainder; an inference the spec marks as its own (from R128). -/
def Obligations.DivisionLaws : Prop :=
  ∀ (ra rb : Reg) (s : State), ra ≠ rb → s.x rb ≠ 0#64 →
    ∃ t, exec (.divs ra rb) s = .next t ∧
      (if (s.x ra).toInt = -2 ^ 63 ∧ (s.x rb).toInt = -1 then
        (t.x ra).toInt = -2 ^ 63 ∧ (t.x rb).toInt = 0
      else
        (s.x ra).toInt = (t.x ra).toInt * (s.x rb).toInt + (t.x rb).toInt ∧
        (t.x rb).toInt.natAbs < (s.x rb).toInt.natAbs ∧
        ((t.x rb).toInt = 0 ∨ (t.x rb).toInt.sign = (s.x ra).toInt.sign) ∧
        ((s.x ra).toInt = 0 → (t.x ra).toInt = 0 ∧ (t.x rb).toInt = 0 ∧ swBit 29 t = true))

/-! ## Register setters and accessors -/

/-- 42_register_access.md R137 to R144: SETUn and SETIn. -/
def Obligations.SettersStoreTheExtendedInput : Prop :=
  ∀ e ∈ Spec.setterRows, ∀ (ra : Reg),
    decode (commandWord e.2.1 (regNumber ra) 0 0 0 0) = .ok (e.1 ra) ∧
    ∀ s : State, ∃ t, Completes (exec (e.1 ra) s) 0#64 t ∧ IsSext e.2.2 s.d (t.x ra) ∧
      OnlyWrites [ra] [] s t

/-- 42_register_access.md R145 to R148: GETUn. -/
def Obligations.UnsignedAccessorsDriveZeroExtension : Prop :=
  ∀ e ∈ Spec.unsignedRows, ∀ (ra : Reg),
    decode (commandWord e.2.1 (regNumber ra) 0 0 0 0) = .ok (e.1 ra) ∧
    ∀ s : State, ∃ (t : State) (q : BitVec 64), Completes (exec (e.1 ra) s) q t ∧
      IsZext e.2.2 (s.x ra) q ∧ OnlyWrites [] [] s t

/-- 42_register_access.md R149 to R152: GETIn. -/
def Obligations.SignedAccessorsDriveSignExtension : Prop :=
  ∀ e ∈ Spec.signedRows, ∀ (ra : Reg),
    decode (commandWord e.2.1 (regNumber ra) 0 0 0 0) = .ok (e.1 ra) ∧
    ∀ s : State, ∃ (t : State) (q : BitVec 64), Completes (exec (e.1 ra) s) q t ∧
      IsSext e.2.2 (s.x ra) q ∧ OnlyWrites [] [] s t

/-! ## Register file -/

/-- 44_register_file.md R165: RFRD; F > 14 is illegal. -/
def Obligations.RegisterFileReadDrivesTheRegister : Prop :=
  (∀ f : BitVec 8, 14 < f.toNat → ∃ e, decode (commandWord 0x50 0 0 0 0 f.toNat) = .error e) ∧
  ∀ e ∈ sprTable, decode (commandWord 0x50 0 0 0 0 e.1) = .ok (.rfrd (BitVec.ofNat 8 e.1)) ∧
    ∀ s : State, (s.spr e.2.1).toNat < 2 ^ e.2.2 ∧
      ∃ t, Completes (exec (.rfrd (BitVec.ofNat 8 e.1)) s) (s.spr e.2.1) t ∧ OnlyWrites [] [] s t

/-- 44_register_file.md R166: RFWR; F > 14 is illegal. -/
def Obligations.RegisterFileWriteWritesTheRegisterAlone : Prop :=
  (∀ f : BitVec 8, 14 < f.toNat → ∃ e, decode (commandWord 0x51 0 0 0 0 f.toNat) = .error e) ∧
  ∀ e ∈ sprTable, decode (commandWord 0x51 0 0 0 0 e.1) = .ok (.rfwr (BitVec.ofNat 8 e.1)) ∧
    ∀ s : State, ∃ t, Completes (exec (.rfwr (BitVec.ofNat 8 e.1)) s) 0#64 t ∧
      (t.spr e.2.1).toNat = s.d.toNat % 2 ^ e.2.2 ∧ (∀ n, n ≠ e.2.1 → t.spr n = s.spr n) ∧
      SameRegsExcept [] s t ∧ SameSwExcept [] s t ∧ SameStack s t ∧ SameInputs s t

/-! ## Stack -/

/-- 43_stack.md R156 to R159, 20_memory.md R51: PUSHn, overflowing and not. -/
def Obligations.PushStoresBytesOrOverflows : Prop :=
  ∀ e ∈ Spec.pushRows, decode (commandWord e.2.1 0 0 0 0 0) = .ok e.1 ∧
    ∀ s : State,
      (s.stkPtr < e.2.2 - 1 → ∃ t, exec e.1 s = .next t ∧ OnlyReports .stackOverflow s t) ∧
      (Memory.wf s.stk.mem = true → e.2.2 - 1 ≤ s.stkPtr → s.stkPtr < s.params.stkLen →
        ∃ t, Completes (exec e.1 s) 0#64 t ∧ t.stkPtr = s.stkPtr - e.2.2 ∧
          (∀ j, j < e.2.2 → t.byteAt ((s.stkPtr - (e.2.2 - 1)).toNat + j) = byteOf s.d j) ∧
          (∀ k, k < (s.stkPtr - (e.2.2 - 1)).toNat ∨ (s.stkPtr - (e.2.2 - 1)).toNat + e.2.2 ≤ k →
            t.byteAt k = s.byteAt k) ∧
          SameRegsExcept [] s t ∧ SameSwExcept [] s t ∧ SameSprs s t ∧ SameInputs s t)

/-- 43_stack.md R160 to R163, 20_memory.md R56: POPn, underflowing and not. -/
def Obligations.PopReadsBytesOrUnderflows : Prop :=
  ∀ e ∈ Spec.popRows, decode (commandWord e.2.1 0 0 0 0 0) = .ok e.1 ∧
    ∀ s : State,
      (s.params.stkTop.toInt < s.stkPtr + e.2.2 →
        ∃ t, exec e.1 s = .next t ∧ OnlyReports .stackUnderflow s t) ∧
      (s.stkPtr + e.2.2 ≤ s.params.stkTop.toInt → -1 ≤ s.stkPtr → s.stkPtr + e.2.2 < s.params.stkLen →
        ∃ (t : State) (q : BitVec 64), Completes (exec e.1 s) q t ∧ q.toNat < 256 ^ e.2.2 ∧
          (∀ j, j < e.2.2 → byteOf q j = s.byteAt ((s.stkPtr + 1).toNat + j)) ∧
          t.stkPtr = s.stkPtr + e.2.2 ∧ (∀ k, t.byteAt k = s.byteAt k) ∧
          SameRegsExcept [] s t ∧ SameSwExcept [] s t ∧ SameSprs s t ∧ SameInputs s t)

/-- 20_memory.md R52: a pop after a push that went through gives the low bytes of the pushed value, and one of the same
width brings the pointer back; the pop takes any inputs. The spec marks R52 as its own inference (from R51 and
R160). -/
def Obligations.PopAfterPushReturnsTheLowBytes : Prop :=
  ∀ e ∈ Spec.pushRows, ∀ g ∈ Spec.popRows, g.2.2 ≤ e.2.2 → ∀ (s t : State) (d : BitVec 64),
    BlockInv s → exec e.1 s = .next t → t.err = .noError →
      ∃ u, exec g.1 { t with d := d } = .next u ∧ u.err = .noError ∧
        u.q.toNat = s.d.toNat % 256 ^ g.2.2 ∧ u.stkPtr = s.stkPtr - e.2.2 + g.2.2 ∧
        (g.2.2 = e.2.2 → u.stk.ptr = s.stk.ptr)

/-- The Stack unit is a stack of bytes: a push puts the value's bytes, least significant first, in front of the bytes
held, a pop takes them off again, a push overflows exactly when the bytes left do not hold it, a pop
underflows exactly when fewer bytes are held (43_stack.md R154, R155; 20_memory.md R51, R52, R59). -/
def Obligations.StackUnitRefinesAByteStack : Prop :=
  ∀ s : State, BlockInv s →
    (∀ e ∈ Spec.pushRows, ∃ t, exec e.1 s = .next t ∧
      (if s.stackBytes.length + e.2.2 ≤ (s.params.stkTop.toInt + 1).toNat then
        t.err = .noError ∧ t.stackBytes = (List.range e.2.2).map (byteOf s.d) ++ s.stackBytes
      else t.err = .stackOverflow ∧ t.stackBytes = s.stackBytes)) ∧
    (∀ e ∈ Spec.popRows, ∃ t, exec e.1 s = .next t ∧
      (if e.2.2 ≤ s.stackBytes.length then
        t.err = .noError ∧ s.stackBytes = (List.range e.2.2).map (byteOf t.q) ++ t.stackBytes
      else t.err = .stackUnderflow ∧ t.stackBytes = s.stackBytes))

/-- 10_state.md R44, 43_stack.md R153: the stack commands neither read nor write the RegisterFile. -/
def Obligations.StackCommandsIgnoreTheRegisterFile : Prop :=
  ∀ e ∈ Spec.pushRows ++ Spec.popRows, ∀ (s t : State) (rf : RegisterFile), exec e.1 s = .next t →
    t.rf = s.rf ∧ exec e.1 { s with rf := rf } = .next { t with rf := rf }

/-! ## The whole machine -/

/-- 60_exceptions.md R174, R175, 00_scope.md R15: an error leaves everything but the outputs as it was; a fatal one is a
fault of the run and a recoverable one a next state; only a state that breaks the invariant meets a missing
byte; nothing is refused. That a fault carries the block's state is the model's choice (log entry 7), as is the
fault for a missing byte (log entry 8). -/
def Obligations.OutcomesFollowTheErrorClasses : Prop :=
  ∀ (cmd : BitVec 32) (s : State),
    match runCommand cmd s with
    | .next t => t.err = .noError ∨
        (t.err ∈ [ErrorCode.divisionByZero, .stackOverflow, .stackUnderflow] ∧ OnlyReports t.err s t)
    | .fault (.invalidFieldValue t) => OnlyReports .invalidFieldValue s t
    | .fault (.illegalCommand t) => OnlyReports .illegalCommand s t
    | .fault (.noSuchByte _) => ¬ BlockInv s
    | .refused _ => False

/-- 60_exceptions.md R176: a decoded command reports no error but its own one (a fatal error's state is in the fault, log
entry 7). -/
def Obligations.CommandsReportOnlyTheirOwnError : Prop :=
  ∀ (i : Instr) (s t : State), i.wellFormed = true → blockAfter (exec i s) = some t →
    t.err ≠ .noError → t.err ∈ Spec.ownErrors i

/-- Every legal command answers in every state that keeps the invariant: a next state, or, for a selector out of range
alone, its fatal error (60_exceptions.md R169, R176, R181). -/
def Obligations.EveryLegalCommandAnswers : Prop :=
  ∀ (i : Instr) (s : State), BlockInv s → i.wellFormed = true →
    (∃ t, exec i s = .next t) ∨
    (ErrorCode.invalidFieldValue ∈ Spec.ownErrors i ∧ ∃ t, exec i s = .fault (.invalidFieldValue t))

/-- 10_state.md R40: which commands write a general register. -/
def Obligations.GeneralRegistersHaveOnlyTheirWriters : Prop :=
  ∀ (i : Instr) (s t : State) (r : Reg), blockAfter (exec i s) = some t → t.x r ≠ s.x r →
    r ∈ Spec.writtenRegs i s

/-- 10_state.md R24 to R37: which commands write a bit of SW. -/
def Obligations.StatusBitsHaveOnlyTheirWriters : Prop :=
  ∀ (i : Instr) (s t : State) (k : Nat), k < 32 → blockAfter (exec i s) = some t →
    swBit k t ≠ swBit k s → k ∈ Spec.writtenBits i

/-- 10_state.md R42, R43: a special-purpose register is written by RFWR with its number and by RESET alone. -/
def Obligations.SpecialRegistersHaveOnlyTheirWriters : Prop :=
  ∀ (i : Instr) (s t : State) (n : Spr), blockAfter (exec i s) = some t → t.spr n ≠ s.spr n →
    i = .reset ∨ ∃ e ∈ sprTable, e.2.1 = n ∧ i = .rfwr (BitVec.ofNat 8 e.1)

/-- 20_memory.md R49, R54, R56: the buffer is written by pushes alone and the pointer by pushes and pops alone. -/
def Obligations.StackHasOnlyItsWriters : Prop :=
  ∀ (i : Instr) (s t : State), blockAfter (exec i s) = some t →
    (t.stk.mem ≠ s.stk.mem → i ∈ Spec.pushRows.map (·.1)) ∧
    (t.stk.ptr ≠ s.stk.ptr → i ∈ (Spec.pushRows ++ Spec.popRows).map (·.1))

/-- 30_encoding.md R71: the bits of the data input that a command does not take change nothing. -/
def Obligations.UntakenInputBitsAreIgnored : Prop :=
  ∀ (i : Instr) (s t : State) (d : BitVec 64), i.wellFormed = true →
    s.d.toNat % 2 ^ Spec.inputBits i = d.toNat % 2 ^ Spec.inputBits i →
    blockAfter (exec i s) = some t → blockAfter (exec i { s with d := d }) = some { t with d := d }

/-- 10_state.md R29 to R37: of the status word only C and OS reach any result. Two states that differ in other SW bits
alone stay so, with the same registers, stack and error, and the same `q` unless the command reads SW. -/
def Obligations.StorageFieldsInfluenceNothing : Prop :=
  ∀ (i : Instr) (s t : State) (sw : BitVec 32), (∀ k ∈ [31, 19, 18], sw.getLsbD k = swBit k s) →
    blockAfter (exec i s) = some t →
    ∃ t', blockAfter (exec i { s with rf := { s.rf with sw := sw } }) = some t' ∧
      t'.err = t.err ∧ (∀ r, t'.x r = t.x r) ∧ (∀ n, t'.spr n = t.spr n) ∧ t'.stk = t.stk ∧
      (i ∉ Spec.readsStatus → t'.q = t.q) ∧
      (∀ k, k < 32 → sw.getLsbD k = swBit k s → swBit k t' = swBit k t)

/-- Two states alike but for the buffer bytes at and below the pointer. -/
def Sys2Proof.Spec.AlikeAbovePointer (s s' : State) : Prop :=
  s'.rf = s.rf ∧ s'.stk.ptr = s.stk.ptr ∧ s'.q = s.q ∧ s'.err = s.err ∧ s'.d = s.d ∧ s'.draw = s.draw ∧
    s'.pending = s.pending ∧ s'.params = s.params ∧
    ∀ k : Nat, s.stkPtr < k → s'.byteAt k = s.byteAt k

/-- The bytes at and below the pointer, STK_INIT's among them, never show: two states alike above the pointer give the
same outputs at every step and stay alike (10_state.md R45, R46; 43_stack.md R155; 20_memory.md R52). -/
def Obligations.BytesBelowThePointerNeverShow : Prop :=
  ∀ s s' : State, BlockInv s → BlockInv s' → Spec.AlikeAbovePointer s s' →
    ∃ t t', blockAfter (step s) = some t ∧ blockAfter (step s') = some t' ∧ Spec.AlikeAbovePointer t t'

/-- The invariant, the model's (10_state.md R45's bound on the pointer, log entries 4 and 5 for the rest), holds at
reset. -/
def Obligations.InvariantHoldsAtReset : Prop := BlockInv State.reset

/-- The invariant holds at every creation with legal parameters and an STK_INIT that fits the buffer, and byte k of the
buffer is byte k of STK_INIT (10_state.md R46; 00_scope.md R8). -/
def Obligations.InvariantHoldsAtEveryCreation : Prop :=
  ∀ (p : Params) (bytes : List Byte), p.Legal → bytes.length ≤ p.stkLen →
    BlockInv (State.create p (Memory.ofBytes bytes)) ∧
    ∀ (k : Nat) (h : k < bytes.length), (State.create p (Memory.ofBytes bytes)).byteAt k = bytes[k]

/-- Every step keeps the invariant and the parameters, a step on a fatal error too (10_state.md R45; 20_memory.md R50;
log entries 4, 5 and 7). -/
def Obligations.EveryStepKeepsTheInvariant : Prop :=
  ∀ s : State, BlockInv s → ∃ t, blockAfter (step s) = some t ∧ BlockInv t ∧ t.params = s.params

/-- From a state that keeps the invariant no step, however many commands follow, forms an index outside the buffer
(20_memory.md R50, which the spec marks as its own inference; log entry 8). -/
def Obligations.NoRunLeavesTheBuffer : Prop :=
  ∀ (n : Nat) (s : State) (k : Int), BlockInv s → Host.Core.run Sys2Proof.core n s ≠ .fault (.noSuchByte k)

/-! ## Beside the statements above -/

/-- The forms that no word decodes to, CI = 3 of ADD and SUB and F > 14 of RFRD and RFWR, raise IllegalCommand and change
nothing when executed: the model's choice (log entry 11; entry 7 for the state in the fault). -/
def Obligations.FormsNoWordDecodesToRaiseIllegalCommand : Prop :=
  ∀ s : State,
    (∀ ra rb : Reg,
      Spec.IllegalForm (commandWord 0x10 (regNumber ra) (regNumber rb) 3 0 0) (.add ra rb 3#2) s ∧
      Spec.IllegalForm (commandWord 0x11 (regNumber ra) (regNumber rb) 3 0 0) (.sub ra rb 3#2) s) ∧
    ∀ f : BitVec 8, 14 < f.toNat →
      Spec.IllegalForm (commandWord 0x50 0 0 0 0 f.toNat) (.rfrd f) s ∧
      Spec.IllegalForm (commandWord 0x51 0 0 0 0 f.toNat) (.rfwr f) s

/-- 41_alu.md R126: SAR as its pseudocode has it: a negative register takes ones in one place at a time, or all at once
from 64 places up, another is shifted plainly. -/
def Obligations.ArithmeticShiftFollowsItsLoop : Prop :=
  ∀ (ra : Reg) (s : State),
    decode (commandWord 0x18 (regNumber ra) 0 0 0 0) = .ok (.sar ra) ∧
    ∃ (t : State) (r : BitVec 64), Completes (exec (.sar ra) s) 0#64 t ∧
      (if (s.x ra).msb then
        r = (if 64 ≤ s.d.toNat then 0xFFFFFFFFFFFFFFFF#64
          else (fun v : BitVec 64 => v >>> 1 ||| 0x8000000000000000#64)^[s.d.toNat] (s.x ra))
       else r.toNat = (s.x ra).toNat / 2 ^ s.d.toNat) ∧
      (if s.params.sarFinalSext then IsSext (widthNow s) r (t.x ra) else t.x ra = r) ∧
      swBit 29 t = (t.x ra == 0#64) ∧ swBit 28 t = (t.x ra).msb ∧ OnlyWrites [ra] [29, 28] s t
end

