-- ==== Sys2Proof/Laws/State.lean ====
section
/-! SUPPORT. One lemma per field per update of State, so that no later proof unfolds a record update. -/

namespace Sys2Proof.Machine

variable (s : State)

@[simp] theorem State.setX_stk (r : Reg) (v : BitVec 64) :
    (s.setX r v).stk = s.stk := by cases r <;> rfl

@[simp] theorem State.setX_q (r : Reg) (v : BitVec 64) :
    (s.setX r v).q = s.q := by cases r <;> rfl

@[simp] theorem State.setX_err (r : Reg) (v : BitVec 64) :
    (s.setX r v).err = s.err := by cases r <;> rfl

@[simp] theorem State.setX_d (r : Reg) (v : BitVec 64) :
    (s.setX r v).d = s.d := by cases r <;> rfl

@[simp] theorem State.setX_draw (r : Reg) (v : BitVec 64) :
    (s.setX r v).draw = s.draw := by cases r <;> rfl

@[simp] theorem State.setX_pending (r : Reg) (v : BitVec 64) :
    (s.setX r v).pending = s.pending := by cases r <;> rfl

@[simp] theorem State.setX_params (r : Reg) (v : BitVec 64) :
    (s.setX r v).params = s.params := by cases r <;> rfl

@[simp] theorem State.setX_sw (r : Reg) (v : BitVec 64) :
    (s.setX r v).sw = s.sw := by cases r <;> rfl

@[simp] theorem State.setX_x_self (r : Reg) (v : BitVec 64) :
    (s.setX r v).x r = v := by cases r <;> rfl

theorem State.setX_x_ne {r r' : Reg} (v : BitVec 64) (h : r' ≠ r) :
    (s.setX r v).x r' = s.x r' := by
  cases r <;> cases r' <;> first | rfl | exact absurd rfl h

theorem State.setX_x (r r' : Reg) (v : BitVec 64) :
    (s.setX r v).x r' = if r' = r then v else s.x r' := by
  cases r <;> cases r' <;> rfl

@[simp] theorem State.setX_spr (r : Reg) (v : BitVec 64) (n : Spr) :
    (s.setX r v).spr n = s.spr n := by cases r <;> rfl

@[simp] theorem State.setX_byteAt (r : Reg) (v : BitVec 64) (k : Nat) :
    (s.setX r v).byteAt k = s.byteAt k := by cases r <;> rfl

@[simp] theorem State.setX_stkPtr (r : Reg) (v : BitVec 64) :
    (s.setX r v).stkPtr = s.stkPtr := by cases r <;> rfl

@[simp] theorem State.setSpr_stk (n : Spr) (v : BitVec 64) :
    (s.setSpr n v).stk = s.stk := by cases n <;> rfl

@[simp] theorem State.setSpr_q (n : Spr) (v : BitVec 64) :
    (s.setSpr n v).q = s.q := by cases n <;> rfl

@[simp] theorem State.setSpr_err (n : Spr) (v : BitVec 64) :
    (s.setSpr n v).err = s.err := by cases n <;> rfl

@[simp] theorem State.setSpr_d (n : Spr) (v : BitVec 64) :
    (s.setSpr n v).d = s.d := by cases n <;> rfl

@[simp] theorem State.setSpr_draw (n : Spr) (v : BitVec 64) :
    (s.setSpr n v).draw = s.draw := by cases n <;> rfl

@[simp] theorem State.setSpr_pending (n : Spr) (v : BitVec 64) :
    (s.setSpr n v).pending = s.pending := by cases n <;> rfl

@[simp] theorem State.setSpr_params (n : Spr) (v : BitVec 64) :
    (s.setSpr n v).params = s.params := by cases n <;> rfl

@[simp] theorem State.setSpr_sw (n : Spr) (v : BitVec 64) :
    (s.setSpr n v).sw = s.sw := by cases n <;> rfl

@[simp] theorem State.setSpr_x (n : Spr) (v : BitVec 64) (r : Reg) :
    (s.setSpr n v).x r = s.x r := by cases n <;> cases r <;> rfl

@[simp] theorem State.setSpr_byteAt (n : Spr) (v : BitVec 64) (k : Nat) :
    (s.setSpr n v).byteAt k = s.byteAt k := by cases n <;> rfl

@[simp] theorem State.setSpr_stkPtr (n : Spr) (v : BitVec 64) :
    (s.setSpr n v).stkPtr = s.stkPtr := by cases n <;> rfl

theorem State.setSpr_spr_ne {n n' : Spr} (v : BitVec 64) (h : n' ≠ n) :
    (s.setSpr n v).spr n' = s.spr n' := by
  cases n <;> cases n' <;> first | rfl | exact absurd rfl h

@[simp] theorem State.setSw_stk (v : BitVec 32) :
    (s.setSw v).stk = s.stk := rfl

@[simp] theorem State.setSw_q (v : BitVec 32) :
    (s.setSw v).q = s.q := rfl

@[simp] theorem State.setSw_err (v : BitVec 32) :
    (s.setSw v).err = s.err := rfl

@[simp] theorem State.setSw_d (v : BitVec 32) :
    (s.setSw v).d = s.d := rfl

@[simp] theorem State.setSw_draw (v : BitVec 32) :
    (s.setSw v).draw = s.draw := rfl

@[simp] theorem State.setSw_pending (v : BitVec 32) :
    (s.setSw v).pending = s.pending := rfl

@[simp] theorem State.setSw_params (v : BitVec 32) :
    (s.setSw v).params = s.params := rfl

@[simp] theorem State.setSw_sw (v : BitVec 32) :
    (s.setSw v).sw = v := rfl

@[simp] theorem State.setSw_x (v : BitVec 32) (r : Reg) :
    (s.setSw v).x r = s.x r := by cases r <;> rfl

@[simp] theorem State.setSw_spr (v : BitVec 32) (n : Spr) :
    (s.setSw v).spr n = s.spr n := by cases n <;> rfl

@[simp] theorem State.setSw_byteAt (v : BitVec 32) (k : Nat) :
    (s.setSw v).byteAt k = s.byteAt k := rfl

@[simp] theorem State.setSw_stkPtr (v : BitVec 32) :
    (s.setSw v).stkPtr = s.stkPtr := rfl

@[simp] theorem State.drive_stk (q : BitVec 64) (e : ErrorCode) :
    (s.drive q e).stk = s.stk := rfl

@[simp] theorem State.drive_d (q : BitVec 64) (e : ErrorCode) :
    (s.drive q e).d = s.d := rfl

@[simp] theorem State.drive_draw (q : BitVec 64) (e : ErrorCode) :
    (s.drive q e).draw = s.draw := rfl

@[simp] theorem State.drive_pending (q : BitVec 64) (e : ErrorCode) :
    (s.drive q e).pending = s.pending := rfl

@[simp] theorem State.drive_params (q : BitVec 64) (e : ErrorCode) :
    (s.drive q e).params = s.params := rfl

@[simp] theorem State.drive_rf (q : BitVec 64) (e : ErrorCode) :
    (s.drive q e).rf = s.rf := rfl

@[simp] theorem State.drive_sw (q : BitVec 64) (e : ErrorCode) :
    (s.drive q e).sw = s.sw := rfl

@[simp] theorem State.drive_stkPtr (q : BitVec 64) (e : ErrorCode) :
    (s.drive q e).stkPtr = s.stkPtr := rfl

@[simp] theorem State.drive_q (q : BitVec 64) (e : ErrorCode) :
    (s.drive q e).q = q := rfl

@[simp] theorem State.drive_err (q : BitVec 64) (e : ErrorCode) :
    (s.drive q e).err = e := rfl

@[simp] theorem State.drive_x (q : BitVec 64) (e : ErrorCode) (r : Reg) :
    (s.drive q e).x r = s.x r := by cases r <;> rfl

@[simp] theorem State.drive_spr (q : BitVec 64) (e : ErrorCode) (n : Spr) :
    (s.drive q e).spr n = s.spr n := by cases n <;> rfl

@[simp] theorem State.drive_byteAt (q : BitVec 64) (e : ErrorCode) (k : Nat) :
    (s.drive q e).byteAt k = s.byteAt k := rfl

@[simp] theorem State.setRf_stk (rf : RegisterFile) :
    (s.setRf rf).stk = s.stk := rfl

@[simp] theorem State.setRf_q (rf : RegisterFile) :
    (s.setRf rf).q = s.q := rfl

@[simp] theorem State.setRf_err (rf : RegisterFile) :
    (s.setRf rf).err = s.err := rfl

@[simp] theorem State.setRf_d (rf : RegisterFile) :
    (s.setRf rf).d = s.d := rfl

@[simp] theorem State.setRf_draw (rf : RegisterFile) :
    (s.setRf rf).draw = s.draw := rfl

@[simp] theorem State.setRf_pending (rf : RegisterFile) :
    (s.setRf rf).pending = s.pending := rfl

@[simp] theorem State.setRf_params (rf : RegisterFile) :
    (s.setRf rf).params = s.params := rfl

@[simp] theorem State.setRf_stkPtr (rf : RegisterFile) :
    (s.setRf rf).stkPtr = s.stkPtr := rfl

@[simp] theorem State.setRf_rf (rf : RegisterFile) :
    (s.setRf rf).rf = rf := rfl

@[simp] theorem State.setRf_sw (rf : RegisterFile) :
    (s.setRf rf).sw = rf.sw := rfl

@[simp] theorem State.setRf_byteAt (rf : RegisterFile) (k : Nat) :
    (s.setRf rf).byteAt k = s.byteAt k := rfl

@[simp] theorem State.setStk_rf (k : StackUnit) :
    (s.setStk k).rf = s.rf := rfl

@[simp] theorem State.setStk_q (k : StackUnit) :
    (s.setStk k).q = s.q := rfl

@[simp] theorem State.setStk_err (k : StackUnit) :
    (s.setStk k).err = s.err := rfl

@[simp] theorem State.setStk_d (k : StackUnit) :
    (s.setStk k).d = s.d := rfl

@[simp] theorem State.setStk_draw (k : StackUnit) :
    (s.setStk k).draw = s.draw := rfl

@[simp] theorem State.setStk_pending (k : StackUnit) :
    (s.setStk k).pending = s.pending := rfl

@[simp] theorem State.setStk_params (k : StackUnit) :
    (s.setStk k).params = s.params := rfl

@[simp] theorem State.setStk_sw (k : StackUnit) :
    (s.setStk k).sw = s.sw := rfl

@[simp] theorem State.setStk_stk (k : StackUnit) :
    (s.setStk k).stk = k := rfl

@[simp] theorem State.setStk_stkPtr (k : StackUnit) :
    (s.setStk k).stkPtr = k.ptr.toInt := rfl

@[simp] theorem State.setStk_byteAt (k : StackUnit) (j : Nat) :
    (s.setStk k).byteAt j = memRead k.mem j := rfl

@[simp] theorem State.setStk_x (k : StackUnit) (r : Reg) :
    (s.setStk k).x r = s.x r := by cases r <;> rfl

@[simp] theorem State.setStk_spr (k : StackUnit) (n : Spr) :
    (s.setStk k).spr n = s.spr n := by cases n <;> rfl

@[simp] theorem State.accept_rf (p : PortInput) (rest : List PortInput) :
    (s.accept p rest).rf = s.rf := rfl

@[simp] theorem State.accept_stk (p : PortInput) (rest : List PortInput) :
    (s.accept p rest).stk = s.stk := rfl

@[simp] theorem State.accept_q (p : PortInput) (rest : List PortInput) :
    (s.accept p rest).q = s.q := rfl

@[simp] theorem State.accept_err (p : PortInput) (rest : List PortInput) :
    (s.accept p rest).err = s.err := rfl

@[simp] theorem State.accept_params (p : PortInput) (rest : List PortInput) :
    (s.accept p rest).params = s.params := rfl

@[simp] theorem State.accept_sw (p : PortInput) (rest : List PortInput) :
    (s.accept p rest).sw = s.sw := rfl

@[simp] theorem State.accept_stkPtr (p : PortInput) (rest : List PortInput) :
    (s.accept p rest).stkPtr = s.stkPtr := rfl

@[simp] theorem State.accept_d (p : PortInput) (rest : List PortInput) :
    (s.accept p rest).d = p.d := rfl

@[simp] theorem State.accept_draw (p : PortInput) (rest : List PortInput) :
    (s.accept p rest).draw = p.draw := rfl

@[simp] theorem State.accept_pending (p : PortInput) (rest : List PortInput) :
    (s.accept p rest).pending = rest := rfl

@[simp] theorem State.accept_x (p : PortInput) (rest : List PortInput) (r : Reg) :
    (s.accept p rest).x r = s.x r := by cases r <;> rfl

@[simp] theorem State.accept_spr (p : PortInput) (rest : List PortInput) (n : Spr) :
    (s.accept p rest).spr n = s.spr n := by cases n <;> rfl

@[simp] theorem State.accept_byteAt (p : PortInput) (rest : List PortInput) (k : Nat) :
    (s.accept p rest).byteAt k = s.byteAt k := rfl

@[simp] theorem State.putField_stk (f : SwField) (v : BitVec 64) :
    (s.putField f v).stk = s.stk := rfl

@[simp] theorem State.putField_q (f : SwField) (v : BitVec 64) :
    (s.putField f v).q = s.q := rfl

@[simp] theorem State.putField_err (f : SwField) (v : BitVec 64) :
    (s.putField f v).err = s.err := rfl

@[simp] theorem State.putField_d (f : SwField) (v : BitVec 64) :
    (s.putField f v).d = s.d := rfl

@[simp] theorem State.putField_draw (f : SwField) (v : BitVec 64) :
    (s.putField f v).draw = s.draw := rfl

@[simp] theorem State.putField_pending (f : SwField) (v : BitVec 64) :
    (s.putField f v).pending = s.pending := rfl

@[simp] theorem State.putField_params (f : SwField) (v : BitVec 64) :
    (s.putField f v).params = s.params := rfl

@[simp] theorem State.putField_stkPtr (f : SwField) (v : BitVec 64) :
    (s.putField f v).stkPtr = s.stkPtr := rfl

@[simp] theorem State.putField_x (f : SwField) (v : BitVec 64) (r : Reg) :
    (s.putField f v).x r = s.x r := by cases r <;> rfl

@[simp] theorem State.putField_spr (f : SwField) (v : BitVec 64) (n : Spr) :
    (s.putField f v).spr n = s.spr n := by cases n <;> rfl

@[simp] theorem State.putField_byteAt (f : SwField) (v : BitVec 64) (k : Nat) :
    (s.putField f v).byteAt k = s.byteAt k := rfl

@[simp] theorem State.putFlag_stk (f : SwField) (b : Bool) :
    (s.putFlag f b).stk = s.stk := rfl

@[simp] theorem State.putFlag_q (f : SwField) (b : Bool) :
    (s.putFlag f b).q = s.q := rfl

@[simp] theorem State.putFlag_err (f : SwField) (b : Bool) :
    (s.putFlag f b).err = s.err := rfl

@[simp] theorem State.putFlag_d (f : SwField) (b : Bool) :
    (s.putFlag f b).d = s.d := rfl

@[simp] theorem State.putFlag_draw (f : SwField) (b : Bool) :
    (s.putFlag f b).draw = s.draw := rfl

@[simp] theorem State.putFlag_pending (f : SwField) (b : Bool) :
    (s.putFlag f b).pending = s.pending := rfl

@[simp] theorem State.putFlag_params (f : SwField) (b : Bool) :
    (s.putFlag f b).params = s.params := rfl

@[simp] theorem State.putFlag_stkPtr (f : SwField) (b : Bool) :
    (s.putFlag f b).stkPtr = s.stkPtr := rfl

@[simp] theorem State.putFlag_x (f : SwField) (b : Bool) (r : Reg) :
    (s.putFlag f b).x r = s.x r := by cases r <;> rfl

@[simp] theorem State.putFlag_spr (f : SwField) (b : Bool) (n : Spr) :
    (s.putFlag f b).spr n = s.spr n := by cases n <;> rfl

@[simp] theorem State.putFlag_byteAt (f : SwField) (b : Bool) (k : Nat) :
    (s.putFlag f b).byteAt k = s.byteAt k := rfl

@[simp] theorem State.putZN_stk (v : BitVec 64) :
    (s.putZN v).stk = s.stk := rfl

@[simp] theorem State.putZN_q (v : BitVec 64) :
    (s.putZN v).q = s.q := rfl

@[simp] theorem State.putZN_err (v : BitVec 64) :
    (s.putZN v).err = s.err := rfl

@[simp] theorem State.putZN_d (v : BitVec 64) :
    (s.putZN v).d = s.d := rfl

@[simp] theorem State.putZN_draw (v : BitVec 64) :
    (s.putZN v).draw = s.draw := rfl

@[simp] theorem State.putZN_pending (v : BitVec 64) :
    (s.putZN v).pending = s.pending := rfl

@[simp] theorem State.putZN_params (v : BitVec 64) :
    (s.putZN v).params = s.params := rfl

@[simp] theorem State.putZN_stkPtr (v : BitVec 64) :
    (s.putZN v).stkPtr = s.stkPtr := rfl

@[simp] theorem State.putZN_x (v : BitVec 64) (r : Reg) :
    (s.putZN v).x r = s.x r := by cases r <;> rfl

@[simp] theorem State.putZN_spr (v : BitVec 64) (n : Spr) :
    (s.putZN v).spr n = s.spr n := by cases n <;> rfl

@[simp] theorem State.putZN_byteAt (v : BitVec 64) (k : Nat) :
    (s.putZN v).byteAt k = s.byteAt k := rfl

@[simp] theorem State.putCVZN_stk (c o : Bool) (v : BitVec 64) :
    (s.putCVZN c o v).stk = s.stk := rfl

@[simp] theorem State.putCVZN_q (c o : Bool) (v : BitVec 64) :
    (s.putCVZN c o v).q = s.q := rfl

@[simp] theorem State.putCVZN_err (c o : Bool) (v : BitVec 64) :
    (s.putCVZN c o v).err = s.err := rfl

@[simp] theorem State.putCVZN_d (c o : Bool) (v : BitVec 64) :
    (s.putCVZN c o v).d = s.d := rfl

@[simp] theorem State.putCVZN_draw (c o : Bool) (v : BitVec 64) :
    (s.putCVZN c o v).draw = s.draw := rfl

@[simp] theorem State.putCVZN_pending (c o : Bool) (v : BitVec 64) :
    (s.putCVZN c o v).pending = s.pending := rfl

@[simp] theorem State.putCVZN_params (c o : Bool) (v : BitVec 64) :
    (s.putCVZN c o v).params = s.params := rfl

@[simp] theorem State.putCVZN_stkPtr (c o : Bool) (v : BitVec 64) :
    (s.putCVZN c o v).stkPtr = s.stkPtr := rfl

@[simp] theorem State.putCVZN_x (c o : Bool) (v : BitVec 64) (r : Reg) :
    (s.putCVZN c o v).x r = s.x r := by cases r <;> rfl

@[simp] theorem State.putCVZN_spr (c o : Bool) (v : BitVec 64) (n : Spr) :
    (s.putCVZN c o v).spr n = s.spr n := by cases n <;> rfl

@[simp] theorem State.putCVZN_byteAt (c o : Bool) (v : BitVec 64) (k : Nat) :
    (s.putCVZN c o v).byteAt k = s.byteAt k := rfl

@[simp] theorem State.putField_sw (f : SwField) (v : BitVec 64) :
    (s.putField f v).sw = swPut f v s.sw := rfl

@[simp] theorem State.putFlag_sw (f : SwField) (b : Bool) :
    (s.putFlag f b).sw = swPut f (if b then 1#64 else 0#64) s.sw := rfl

@[simp] theorem State.setTwo_stk (ra rb : Reg) (va vb : BitVec 64) :
    (s.setTwo ra rb va vb).stk = s.stk := by unfold State.setTwo; split <;> simp

@[simp] theorem State.setTwo_q (ra rb : Reg) (va vb : BitVec 64) :
    (s.setTwo ra rb va vb).q = s.q := by unfold State.setTwo; split <;> simp

@[simp] theorem State.setTwo_err (ra rb : Reg) (va vb : BitVec 64) :
    (s.setTwo ra rb va vb).err = s.err := by unfold State.setTwo; split <;> simp

@[simp] theorem State.setTwo_d (ra rb : Reg) (va vb : BitVec 64) :
    (s.setTwo ra rb va vb).d = s.d := by unfold State.setTwo; split <;> simp

@[simp] theorem State.setTwo_draw (ra rb : Reg) (va vb : BitVec 64) :
    (s.setTwo ra rb va vb).draw = s.draw := by unfold State.setTwo; split <;> simp

@[simp] theorem State.setTwo_pending (ra rb : Reg) (va vb : BitVec 64) :
    (s.setTwo ra rb va vb).pending = s.pending := by unfold State.setTwo; split <;> simp

@[simp] theorem State.setTwo_params (ra rb : Reg) (va vb : BitVec 64) :
    (s.setTwo ra rb va vb).params = s.params := by unfold State.setTwo; split <;> simp

@[simp] theorem State.setTwo_sw (ra rb : Reg) (va vb : BitVec 64) :
    (s.setTwo ra rb va vb).sw = s.sw := by unfold State.setTwo; split <;> simp

@[simp] theorem State.setTwo_stkPtr (ra rb : Reg) (va vb : BitVec 64) :
    (s.setTwo ra rb va vb).stkPtr = s.stkPtr := by unfold State.setTwo; split <;> simp

@[simp] theorem State.setTwo_spr (ra rb : Reg) (va vb : BitVec 64) (n : Spr) :
    (s.setTwo ra rb va vb).spr n = s.spr n := by unfold State.setTwo; split <;> simp

@[simp] theorem State.setTwo_byteAt (ra rb : Reg) (va vb : BitVec 64) (k : Nat) :
    (s.setTwo ra rb va vb).byteAt k = s.byteAt k := by unfold State.setTwo; split <;> simp

/-- Two results of one command: two distinct registers take one each; one register takes the drawn one. -/
theorem State.setTwo_x (ra rb r : Reg) (va vb : BitVec 64) :
    (s.setTwo ra rb va vb).x r =
      if r = ra ∧ (r ≠ rb ∨ s.draw = .aLast) then va
      else if r = rb then vb else s.x r := by
  unfold State.setTwo
  cases h : s.draw <;> simp only [State.setX_x] <;>
    by_cases h1 : r = ra <;> by_cases h2 : r = rb <;> simp_all

end Sys2Proof.Machine
end

