-- ==== Sys2Proof/Laws/Flags.lean ====
section
/-! SUPPORT. What a field read answers and what a field write leaves, bit by bit (10_state.md R21, R23). -/

namespace Sys2Proof.Machine

theorem SwField.mask_getLsbD (f : SwField) (i : Nat) (hi : i < 32) :
    f.mask.getLsbD i = decide (f.lo ≤ i ∧ i < f.lo + f.width) := by
  revert i
  cases f <;> decide

/-- A field write changes the field's bits to the value's and no other bit. -/
theorem swPut_getLsbD (f : SwField) (v : BitVec 64) (sw : BitVec 32) (i : Nat) (hi : i < 32) :
    (swPut f v sw).getLsbD i =
      if f.lo ≤ i ∧ i < f.lo + f.width then v.getLsbD (i - f.lo) else sw.getLsbD i := by
  simp only [swPut, BitVec.getLsbD_or, BitVec.getLsbD_and, BitVec.getLsbD_not, f.mask_getLsbD i hi,
    BitVec.getLsbD_shiftLeft, BitVec.getLsbD_setWidth, hi, decide_true, Bool.true_and]
  by_cases h : f.lo ≤ i ∧ i < f.lo + f.width
  · have : i - f.lo < 32 := by omega
    simp [h, this]
  · simp [h]

/-- A field read answers the field's bits and zeros above. -/
theorem swGet_getLsbD (f : SwField) (sw : BitVec 32) (i : Nat) :
    (swGet f sw).getLsbD i = (decide (i < f.width) && sw.getLsbD (f.lo + i)) := by
  have hw : f.lo + f.width ≤ 32 := by cases f <;> decide
  simp only [swGet, BitVec.getLsbD_setWidth, BitVec.getLsbD_ushiftRight, BitVec.getLsbD_and]
  by_cases h : i < f.width
  · have h32 : f.lo + i < 32 := by omega
    simp [f.mask_getLsbD _ h32, h, show i < 64 by omega]
  · by_cases h32 : f.lo + i < 32
    · simp [f.mask_getLsbD _ h32, h]
    · simp [h, BitVec.getLsbD_of_ge sw (f.lo + i) (by omega)]

theorem swGet_toNat (f : SwField) (sw : BitVec 32) :
    (swGet f sw).toNat = sw.toNat / 2 ^ f.lo % 2 ^ f.width := by
  refine Nat.eq_of_testBit_eq fun i => ?_
  simp only [Nat.testBit_mod_two_pow, Nat.testBit_div_two_pow]
  have h := swGet_getLsbD f sw i
  simpa [BitVec.getLsbD, Nat.add_comm] using h

/-- A 1-bit field as a truth value is its bit. -/
theorem State.flag_eq_bit (s : State) (f : SwField) (h : f.width = 1) : s.flag f = swBit f.lo s := by
  have hb := swGet_getLsbD f s.sw 0
  have hn := swGet_toNat f s.sw
  rw [h] at hb hn
  have h0 : (swGet f s.sw).getLsbD 0 = decide ((swGet f s.sw).toNat % 2 = 1) := by
    rw [BitVec.getLsbD, Nat.testBit_zero]
  rw [h0] at hb
  simp only [Nat.add_zero, Nat.zero_lt_one, decide_true, Bool.true_and] at hb
  rw [State.flag, swBit, ← hb]
  have hlt : (swGet f s.sw).toNat < 2 := by rw [hn]; exact Nat.mod_lt _ (by decide)
  rcases (show (swGet f s.sw).toNat = 0 ∨ (swGet f s.sw).toNat = 1 by omega) with h2 | h2
  · simp [(BitVec.toNat_inj.mp (by simpa using h2) : swGet f s.sw = 0#64)]
  · simp [(BitVec.toNat_inj.mp (by simpa using h2) : swGet f s.sw = 1#64)]

/-- After a field write, bit `i` of the status word. -/
theorem State.putField_swBit (s : State) (f : SwField) (v : BitVec 64) (i : Nat) (hi : i < 32) :
    (s.putField f v).sw.getLsbD i =
      if f.lo ≤ i ∧ i < f.lo + f.width then v.getLsbD (i - f.lo) else s.sw.getLsbD i := by
  rw [State.putField_sw, swPut_getLsbD f v s.sw i hi]

/-- After a flag write, bit `i` of the status word. -/
theorem State.putFlag_swBit (s : State) (f : SwField) (b : Bool) (i : Nat) (hi : i < 32)
    (h : f.width = 1) :
    (s.putFlag f b).sw.getLsbD i = if i = f.lo then b else s.sw.getLsbD i := by
  rw [State.putFlag_sw, swPut_getLsbD f _ s.sw i hi, h]
  by_cases hl : i = f.lo
  · subst hl; cases b <;> simp
  · rw [if_neg (by omega), if_neg hl]

/-- After Z and N are written, bit `i` of the status word. -/
theorem State.putZN_swBit (s : State) (r : BitVec 64) (i : Nat) (hi : i < 32) :
    (s.putZN r).sw.getLsbD i =
      if i = 28 then r.msb else if i = 29 then r == 0#64 else s.sw.getLsbD i := by
  rw [State.putZN, State.putFlag_swBit _ _ _ i hi rfl, State.putFlag_swBit _ _ _ i hi rfl]
  rfl

/-- After C, V, Z and N are written, bit `i` of the status word. -/
theorem State.putCVZN_swBit (s : State) (c v : Bool) (r : BitVec 64) (i : Nat) (hi : i < 32) :
    (s.putCVZN c v r).sw.getLsbD i =
      if i = 28 then r.msb else if i = 29 then r == 0#64 else if i = 30 then v else if i = 31 then c
      else s.sw.getLsbD i := by
  rw [State.putCVZN, State.putZN_swBit _ _ i hi, State.putFlag_swBit _ _ _ i hi rfl,
    State.putFlag_swBit _ _ _ i hi rfl]
  rfl

end Sys2Proof.Machine
end

