-- ==== Sys2Proof/Laws/Operands.lean ====
section
/-! SUPPORT. What each operand form answers, in the spec's own terms (00_scope.md R10 to R12; 30_encoding.md R68 to
R70). -/

namespace Sys2Proof.Machine

theorem sext_getLsbD (n : Nat) (hn : 0 < n) (h : n ≤ 64) (v : BitVec 64) (i : Nat) (hi : i < 64) :
    (sext n v).getLsbD i = v.getLsbD (min i (n - 1)) := by
  rw [sext, BitVec.getLsbD_signExtend]
  simp only [hi, decide_true, Bool.true_and]
  by_cases hin : i < n
  · simp [hin, show min i (n - 1) = i by omega]
  · rw [if_neg hin, show min i (n - 1) = n - 1 by omega, BitVec.msb_eq_getLsbD_last]
    simp [show n - 1 < n by omega]

theorem sext_isSext (n : Nat) (hn : 0 < n) (h : n ≤ 64) (v : BitVec 64) : IsSext n v (sext n v) :=
  fun i hi => sext_getLsbD n hn h v i hi

/-- The extension is the one pattern with the bits the spec gives it. -/
theorem IsSext.eq {n : Nat} (hn : 0 < n) (h : n ≤ 64) {v r : BitVec 64} (hr : IsSext n v r) :
    r = sext n v := by
  refine BitVec.eq_of_getLsbD_eq fun i hi => ?_
  rw [hr i hi, sext_getLsbD n hn h v i hi]

theorem zext_toNat (n : Nat) (h : n ≤ 64) (v : BitVec 64) : (zext n v).toNat = v.toNat % 2 ^ n := by
  have : v.toNat % 2 ^ n < 2 ^ 64 :=
    lt_of_lt_of_le (Nat.mod_lt _ (by positivity)) (Nat.pow_le_pow_right (by decide) h)
  rw [zext, BitVec.toNat_setWidth, BitVec.toNat_setWidth, Nat.mod_eq_of_lt this]

theorem zext_isZext (n : Nat) (h : n ≤ 64) (v : BitVec 64) : IsZext n v (zext n v) := zext_toNat n h v

theorem State.operandWidth_eq (s : State) : s.operandWidth = widthNow s := by
  rw [State.operandWidth, widthOf, swGet_toNat]; rfl

/-- OperandSize selects one of the four widths. -/
theorem widthNow_cases (s : State) :
    widthNow s = 8 ∨ widthNow s = 16 ∨ widthNow s = 32 ∨ widthNow s = 64 := by
  have h : swBits 18 2 s < 4 := Nat.mod_lt _ (by decide)
  unfold widthNow
  generalize swBits 18 2 s = k at *
  interval_cases k <;> simp

theorem shiftLeft64_toNat (a : BitVec 64) (n : Nat) :
    (shiftLeft64 a n).toNat = a.toNat * 2 ^ n % 2 ^ 64 := by
  unfold shiftLeft64
  split
  · simp [BitVec.toNat_shiftLeft, Nat.shiftLeft_eq]
  · have h : 2 ^ 64 ∣ a.toNat * 2 ^ n := Dvd.dvd.mul_left (pow_dvd_pow 2 (by omega)) _
    rw [Nat.mod_eq_zero_of_dvd h]; rfl

theorem shiftRight64_toNat (a : BitVec 64) (n : Nat) : (shiftRight64 a n).toNat = a.toNat / 2 ^ n := by
  unfold shiftRight64
  split
  · simp [BitVec.toNat_ushiftRight, Nat.shiftRight_eq_div_pow]
  · have h : a.toNat < 2 ^ n := lt_of_lt_of_le a.isLt (Nat.pow_le_pow_right (by decide) (by omega))
    rw [Nat.div_eq_of_lt h]; rfl

/-- The carry-in of a legal CI (30_encoding.md R68). -/
theorem State.carryIn_eq (s : State) (ci : BitVec 2) (h : ci ≠ 3#2) :
    s.carryIn ci = some (if ci = 0#2 then false else if ci = 1#2 then true else swBit 31 s) := by
  have hc : s.flag .c = swBit 31 s := s.flag_eq_bit .c rfl
  have : ci = 0#2 ∨ ci = 1#2 ∨ ci = 2#2 := by revert ci; decide
  rcases this with rfl | rfl | rfl <;> simp [State.carryIn, hc]

theorem State.carryIn_illegal (s : State) : s.carryIn 3#2 = none := rfl

/-- `sprNumbered` is the spec's table, and answers nothing else. -/
theorem sprNumbered_eq_table (f : BitVec 8) :
    sprNumbered f = (sprTable.find? (fun e => e.1 == f.toNat)).map (fun e => e.2.1) := by
  revert f; decide

theorem sprNumbered_none (f : BitVec 8) (h : 14 < f.toNat) : sprNumbered f = none := by
  revert f; decide

end Sys2Proof.Machine
end

