-- ==== Sys2Proof/Laws/Memory.lean ====
section
/-! SUPPORT. The buffer's laws: a read after a write, and the canonical form kept by every write
(20_memory.md R50, R51, R52, R59). -/

namespace Sys2Proof.Machine

/-- Below every listed index a read answers the unlisted byte. -/
theorem memRead_below (m : Memory) (k : Nat) (h : ∀ c ∈ m, k < c.1) : memRead m k = unlistedByte := by
  induction m with
  | nil => rfl
  | cons c rest ih =>
    obtain ⟨a, b⟩ := c
    have ha : k < a := h (a, b) (by simp)
    rw [memRead, if_neg (by omega)]
    exact ih fun c hc => h c (by simp [hc])

/-- The canonical form, taken apart. -/
theorem Memory.wf_cons (a : Nat) (b : Byte) (rest : Memory) :
    Memory.wf ((a, b) :: rest) = true ↔
      b ≠ unlistedByte ∧ (∀ c ∈ rest, a < c.1) ∧ Memory.wf rest = true := by
  simp [Memory.wf, and_assoc]

/-- A read after a write: the written index gives the written byte, every other what it gave before. -/
theorem memRead_memWrite (m : Memory) (k j : Nat) (b : Byte) (h : Memory.wf m = true) :
    memRead (memWrite m k b) j = if j = k then b else memRead m j := by
  induction m with
  | nil =>
    by_cases hb : b = unlistedByte
    · simp [memWrite, memRead, hb]
    · simp [memWrite, memRead, hb, eq_comm]
  | cons c rest ih =>
    obtain ⟨a, c⟩ := c
    obtain ⟨-, hgt, hw⟩ := (Memory.wf_cons a c rest).mp h
    have hbelow : ∀ i, i ≤ a → memRead rest i = unlistedByte :=
      fun i hi => memRead_below rest i fun c hc => lt_of_le_of_lt hi (hgt c hc)
    unfold memWrite
    by_cases h1 : k < a
    · rw [if_pos h1]
      by_cases hb : b = unlistedByte
      · rw [if_pos hb]
        by_cases hj : j = k
        · subst hj
          rw [if_pos rfl, memRead, if_neg (by omega), hbelow j (by omega), hb]
        · rw [if_neg hj]
      · rw [if_neg hb, memRead]
        by_cases hj : j = k
        · simp [hj]
        · rw [if_neg hj, if_neg (Ne.symm hj)]
    · rw [if_neg h1]
      by_cases h2 : k = a
      · subst h2
        rw [if_pos rfl]
        by_cases hb : b = unlistedByte
        · rw [if_pos hb]
          by_cases hj : j = k
          · rw [if_pos hj, hj, hbelow k le_rfl, hb]
          · rw [if_neg hj, memRead, if_neg (Ne.symm hj)]
        · rw [if_neg hb, memRead, memRead]
          by_cases hj : j = k
          · simp [hj]
          · simp [hj, Ne.symm hj]
      · rw [if_neg h2, memRead, memRead, ih hw]
        by_cases hj : j = k
        · rw [if_pos hj, if_neg (by omega), if_pos hj]
        · rw [if_neg hj, if_neg hj]

/-- Every index of the list after a write was listed before it or is the written one. -/
theorem memWrite_mem (m : Memory) (k : Nat) (b : Byte) (c : Host.Cell) (h : c ∈ memWrite m k b) :
    c ∈ m ∨ c = (k, b) := by
  induction m with
  | nil =>
    unfold memWrite at h
    split at h <;> simp_all
  | cons e rest ih =>
    obtain ⟨a, e⟩ := e
    unfold memWrite at h
    split at h
    · split at h <;> simp_all
      tauto
    · split at h
      · split at h <;> simp_all
        tauto
      · rcases List.mem_cons.mp h with h | h
        · simp [h]
        · rcases ih h with h | h <;> simp [h]

/-- A write keeps the canonical form. -/
theorem memWrite_wf (m : Memory) (k : Nat) (b : Byte) (h : Memory.wf m = true) :
    Memory.wf (memWrite m k b) = true := by
  induction m with
  | nil =>
    unfold memWrite
    split
    · rfl
    · simp_all [Memory.wf]
  | cons e rest ih =>
    obtain ⟨a, e⟩ := e
    obtain ⟨he, hgt, hw⟩ := (Memory.wf_cons a e rest).mp h
    unfold memWrite
    by_cases h1 : k < a
    · rw [if_pos h1]
      by_cases hb : b = unlistedByte
      · rw [if_pos hb]; exact h
      · rw [if_neg hb]
        refine (Memory.wf_cons k b _).mpr ⟨hb, fun c hc => ?_, h⟩
        rcases List.mem_cons.mp hc with rfl | hc
        · exact h1
        · exact lt_trans h1 (hgt c hc)
    · rw [if_neg h1]
      by_cases h2 : k = a
      · subst h2
        rw [if_pos rfl]
        by_cases hb : b = unlistedByte
        · rw [if_pos hb]; exact hw
        · rw [if_neg hb]; exact (Memory.wf_cons k b rest).mpr ⟨hb, hgt, hw⟩
      · rw [if_neg h2]
        refine (Memory.wf_cons a e _).mpr ⟨he, fun c hc => ?_, ih hw⟩
        rcases memWrite_mem rest k b c hc with hc | rfl
        · exact hgt c hc
        · show a < k; omega

/-- A write inside the buffer lists no index past it. -/
theorem memWrite_within (l : Nat) (m : Memory) (k : Nat) (b : Byte)
    (h : Memory.within l m = true) (hk : k < l) : Memory.within l (memWrite m k b) = true := by
  simp only [Memory.within, List.all_eq_true, decide_eq_true_eq] at *
  intro c hc
  rcases memWrite_mem m k b c hc with hc | rfl
  · exact h c hc
  · exact hk

/-- A push's writes keep the canonical form. -/
theorem memWriteBytes_wf (n : Nat) (m : Memory) (k v : Nat) (h : Memory.wf m = true) :
    Memory.wf (memWriteBytes n m k v) = true := by
  induction n generalizing m k v with
  | zero => exact h
  | succ n ih => exact ih _ _ _ (memWrite_wf m k _ h)

/-- A push's writes inside the buffer list no index past it. -/
theorem memWriteBytes_within (l n : Nat) (m : Memory) (k v : Nat)
    (h : Memory.within l m = true) (hk : k + n ≤ l) :
    Memory.within l (memWriteBytes n m k v) = true := by
  induction n generalizing m k v with
  | zero => exact h
  | succ n ih => exact ih _ _ _ (memWrite_within l m k _ h (by omega)) (by omega)

/-- A read after a push's writes: byte `j` of the value at index `k + j`, every other index as before. -/
theorem memRead_memWriteBytes (n : Nat) (m : Memory) (k v j : Nat) (h : Memory.wf m = true) :
    memRead (memWriteBytes n m k v) j =
      if k ≤ j ∧ j < k + n then BitVec.ofNat 8 (v / 256 ^ (j - k)) else memRead m j := by
  induction n generalizing m k v with
  | zero => rw [memWriteBytes, if_neg (by omega)]
  | succ n ih =>
    rw [memWriteBytes, ih _ _ _ (memWrite_wf m k _ h), memRead_memWrite m k j _ h]
    by_cases hj : j = k
    · subst hj
      rw [if_neg (by omega), if_pos rfl, if_pos (by omega)]
      simp
    · by_cases hin : k + 1 ≤ j ∧ j < k + 1 + n
      · rw [if_pos hin, if_pos (by omega), Nat.div_div_eq_div_mul,
          show j - k = (j - (k + 1)) + 1 by omega, pow_succ, Nat.mul_comm]
      · rw [if_neg hin, if_neg hj, if_neg (by omega)]

/-- What a pop reads depends on the bytes it reads alone. -/
theorem memReadBytes_congr (n : Nat) (m m' : Memory) (k : Nat)
    (h : ∀ j, k ≤ j → j < k + n → memRead m j = memRead m' j) :
    memReadBytes n m k = memReadBytes n m' k := by
  induction n generalizing k with
  | zero => rfl
  | succ n ih =>
    rw [memReadBytes, memReadBytes, h k le_rfl (by omega),
      ih (k + 1) fun j h1 h2 => h j (by omega) (by omega)]

theorem memReadBytes_lt (n : Nat) (m : Memory) (k : Nat) : memReadBytes n m k < 256 ^ n := by
  induction n generalizing k with
  | zero => simp [memReadBytes]
  | succ n ih =>
    have h1 := ih (k + 1)
    have h2 := (memRead m k).isLt
    rw [memReadBytes, pow_succ]
    omega

/-- Byte `j` of the value a pop reads is the byte at index `k + j`. -/
theorem memReadBytes_byte (n : Nat) (m : Memory) (k j : Nat) (hj : j < n) :
    memReadBytes n m k / 256 ^ j % 256 = (memRead m (k + j)).toNat := by
  induction n generalizing k j with
  | zero => omega
  | succ n ih =>
    have h2 : (memRead m k).toNat < 256 := (memRead m k).isLt
    cases j with
    | zero => rw [memReadBytes]; simp; omega
    | succ j =>
      rw [memReadBytes, pow_succ, Nat.mul_comm (256 ^ j) 256, ← Nat.div_div_eq_div_mul,
        show ((memRead m k).toNat + 256 * memReadBytes n m (k + 1)) / 256
          = memReadBytes n m (k + 1) by omega,
        ih (k + 1) j (by omega), show k + 1 + j = k + (j + 1) by omega]

/-- A pop of the bytes a push wrote reads the pushed value. -/
theorem memReadBytes_memWriteBytes (n : Nat) (m : Memory) (k v : Nat) (h : Memory.wf m = true) :
    memReadBytes n (memWriteBytes n m k v) k = v % 256 ^ n := by
  induction n generalizing m k v with
  | zero => simp [memReadBytes, Nat.mod_one]
  | succ n ih =>
    rw [memReadBytes, memRead_memWriteBytes (n + 1) m k v k h, if_pos (by omega), memWriteBytes,
      ih _ _ _ (memWrite_wf m k _ h), pow_succ, Nat.mul_comm (256 ^ n) 256, Nat.mod_mul]
    simp

/-- A buffer made from its bytes is canonical. -/
theorem Memory.ofBytes_wf (bytes : List Byte) : Memory.wf (Memory.ofBytes bytes) = true := by
  have go : ∀ (bs : List Byte) (m : Memory) (k : Nat), Memory.wf m = true →
      Memory.wf (Memory.ofBytes.memWriteAll m k bs) = true := by
    intro bs
    induction bs with
    | nil => exact fun m k h => h
    | cons b rest ih => exact fun m k h => ih _ _ (memWrite_wf m k b h)
  exact go bytes [] 0 rfl

/-- A buffer made from at most `l` bytes lists no index past `l`. -/
theorem Memory.ofBytes_within (l : Nat) (bytes : List Byte) (hl : bytes.length ≤ l) :
    Memory.within l (Memory.ofBytes bytes) = true := by
  have go : ∀ (bs : List Byte) (m : Memory) (k : Nat), Memory.within l m = true →
      k + bs.length ≤ l → Memory.within l (Memory.ofBytes.memWriteAll m k bs) = true := by
    intro bs
    induction bs with
    | nil => exact fun m k h _ => h
    | cons b rest ih =>
      intro m k h hk
      rw [List.length_cons] at hk
      exact ih _ _ (memWrite_within l m k b h (by omega)) (by omega)
  exact go bytes [] 0 rfl (by omega)

/-- The buffer at reset is canonical. -/
theorem State.reset_mem_wf : Memory.wf State.reset.stk.mem = true := rfl

end Sys2Proof.Machine
end

