-- ==== Sys2Proof/Laws/Ops.lean ====
section
/-! SUPPORT. What each shared operation can answer, said once. -/

namespace Sys2Proof.Machine

/-! ## How a command ends -/

@[simp] theorem finish_eq_next (s t : State) (q : BitVec 64) :
    finish s q = .next t ↔ s.drive q .noError = t := by
  simp [finish]

@[simp] theorem finish_ne_fault (s : State) (q : BitVec 64) (r : Fault) : finish s q ≠ .fault r := by
  simp [finish]

@[simp] theorem finish_ne_refused (s : State) (q : BitVec 64) (r : Refusal) :
    finish s q ≠ .refused r := by
  simp [finish]

@[simp] theorem raise_ne_refused (e : ErrorCode) (s : State) (r : Refusal) : raise e s ≠ .refused r := by
  cases e <;> simp [raise]

/-- A recoverable error is a next state (60_exceptions.md R175). -/
theorem raise_recoverable (e : ErrorCode) (s : State) (h1 : e ≠ .invalidFieldValue)
    (h2 : e ≠ .illegalCommand) : raise e s = .next (s.drive 0#64 e) := by
  cases e <;> first | rfl | exact absurd rfl h1 | exact absurd rfl h2

/-- Whatever the class, the block's state after an error is unchanged but for the outputs (R174). -/
theorem blockAfter_raise (e : ErrorCode) (s : State) : blockAfter (raise e s) = some (s.drive 0#64 e) := by
  cases e <;> rfl

theorem Completes.of_finish (s : State) (q : BitVec 64) : Completes (finish s q) q (s.drive q .noError) :=
  ⟨rfl, rfl, rfl⟩

/-! ## Selectors (40_status_word.md R95) -/

theorem selectField_in_range (f : SwField) (s : State) (h : s.d.toNat ≤ 2 ^ f.width - 1) :
    selectField f s = finish (s.putField f s.d) 0#64 := if_neg (by omega)

theorem selectField_out_of_range (f : SwField) (s : State) (h : s.d.toNat > 2 ^ f.width - 1) :
    selectField f s = .fault (.invalidFieldValue (s.drive 0#64 .invalidFieldValue)) := if_pos h

/-! ## The stack (43_stack.md R154, R155) -/

/-- The state a push of `n` bytes leaves. -/
def State.pushed (s : State) (n : Nat) : State :=
  s.setStk { ptr := s.stk.ptr - BitVec.ofNat 32 n,
             mem := memWriteBytes n s.stk.mem (s.stkPtr - (n - 1)).toNat s.d.toNat }

/-- The state a pop of `n` bytes leaves. -/
def State.popped (s : State) (n : Nat) : State :=
  s.setStk { s.stk with ptr := s.stk.ptr + BitVec.ofNat 32 n }

/-- All a push can answer. -/
theorem pushBytes_cases (n : Nat) (s : State) :
    (s.stkPtr < n - 1 ∧ pushBytes n s = .next (s.drive 0#64 .stackOverflow)) ∨
    ((n : Int) - 1 ≤ s.stkPtr ∧ s.stkPtr < s.params.stkLen ∧ pushBytes n s = finish (s.pushed n) 0#64) ∨
    ((n : Int) - 1 ≤ s.stkPtr ∧ s.params.stkLen ≤ s.stkPtr ∧
      pushBytes n s = .fault (.noSuchByte (s.stkPtr - (n - 1)))) := by
  unfold pushBytes State.inBuffer
  by_cases h1 : s.stkPtr < (n : Int) - 1
  · exact .inl ⟨h1, if_pos h1⟩
  · by_cases h2 : s.stkPtr < s.params.stkLen
    · refine .inr (.inl ⟨by omega, h2, ?_⟩)
      rw [if_neg h1, if_pos]
      · rfl
      · simp only [Bool.and_eq_true, decide_eq_true_eq]; omega
    · refine .inr (.inr ⟨by omega, by omega, ?_⟩)
      rw [if_neg h1, if_neg]
      simp only [Bool.and_eq_true, decide_eq_true_eq]; omega

/-- All a pop can answer. -/
theorem popBytes_cases (n : Nat) (s : State) :
    (s.params.stkTop.toInt < s.stkPtr + n ∧ popBytes n s = .next (s.drive 0#64 .stackUnderflow)) ∨
    (s.stkPtr + n ≤ s.params.stkTop.toInt ∧ -1 ≤ s.stkPtr ∧ s.stkPtr + n < s.params.stkLen ∧
      popBytes n s =
        finish (s.popped n) (BitVec.ofNat 64 (memReadBytes n s.stk.mem (s.stkPtr + 1).toNat))) ∨
    (s.stkPtr + n ≤ s.params.stkTop.toInt ∧ (s.stkPtr < -1 ∨ s.params.stkLen ≤ s.stkPtr + n) ∧
      popBytes n s = .fault (.noSuchByte (s.stkPtr + 1))) := by
  unfold popBytes State.inBuffer
  by_cases h1 : s.stkPtr + n > s.params.stkTop.toInt
  · exact .inl ⟨h1, if_pos h1⟩
  · by_cases h2 : -1 ≤ s.stkPtr ∧ s.stkPtr + n < s.params.stkLen
    · refine .inr (.inl ⟨by omega, h2.1, h2.2, ?_⟩)
      rw [if_neg h1, if_pos]
      · rfl
      · simp only [Bool.and_eq_true, decide_eq_true_eq]; omega
    · refine .inr (.inr ⟨by omega, by omega, ?_⟩)
      rw [if_neg h1, if_neg]
      simp only [Bool.and_eq_true, decide_eq_true_eq]; omega

/-- The pointer after a push that goes through. -/
theorem stkPtr_sub (s : State) (n : Nat) (h1 : (n : Int) - 1 ≤ s.stkPtr) (hn : n ≤ 8) :
    (s.stk.ptr - BitVec.ofNat 32 n).toInt = s.stkPtr - n := by
  have hlt : s.stkPtr < 2 ^ 31 := by have := BitVec.toInt_lt (x := s.stk.ptr); simpa [State.stkPtr] using this
  have hn32 : (BitVec.ofNat 32 n).toInt = n := by interval_cases n <;> rfl
  rw [BitVec.toInt_sub, hn32, show s.stk.ptr.toInt = s.stkPtr from rfl,
    Int.bmod_eq_of_le (by omega) (by omega)]

/-- The pointer after a pop that goes through. -/
theorem stkPtr_add (s : State) (n : Nat) (h1 : -1 ≤ s.stkPtr)
    (h2 : s.stkPtr + n ≤ s.params.stkTop.toInt) (hn : n ≤ 8) :
    (s.stk.ptr + BitVec.ofNat 32 n).toInt = s.stkPtr + n := by
  have hlt : s.params.stkTop.toInt < 2 ^ 31 := by
    have := BitVec.toInt_lt (x := s.params.stkTop); simpa using this
  have hn32 : (BitVec.ofNat 32 n).toInt = n := by interval_cases n <;> rfl
  rw [BitVec.toInt_add, hn32, show s.stk.ptr.toInt = s.stkPtr from rfl,
    Int.bmod_eq_of_le (by omega) (by omega)]

/-! ## The port -/

/-- With a command at the port a step decodes and runs it. -/
theorem step_cons (s : State) (p : PortInput) (rest : List PortInput) (h : s.pending = p :: rest) :
    step s = runCommand p.cmd (s.accept p rest) := by
  simp [step, State.fetch, h]

/-- With no command at the port nothing changes (assumption log, entry 2). -/
theorem step_nil (s : State) (h : s.pending = []) : step s = .next s := by
  simp [step, State.fetch, h]

theorem runCommand_ok (cmd : BitVec 32) (i : Instr) (s : State) (h : decode cmd = .ok i) :
    runCommand cmd s = exec i s := by
  simp [runCommand, h]

theorem runCommand_error (cmd : BitVec 32) (e : DecodeError) (s : State) (h : decode cmd = .error e) :
    runCommand cmd s = .fault (.illegalCommand (s.drive 0#64 .illegalCommand)) := by
  simp [runCommand, h, raise]

end Sys2Proof.Machine
end

