-- ==== Sys2Proof/Laws/PerInstr.lean ====
section
/-! SUPPORT. The form of every command's word, one lemma per constructor (30_encoding.md R66, R67, R72). -/

namespace Sys2Proof.Laws.EncodingForm

/-- The word's opcode is in the opcode map, bits 7:0 are 0, and so is every field the command does not use. -/
def Statement (i : Instr) : Prop :=
  ∃ row, opMap ((encode i).extractLsb' 24 8).toNat = some row ∧ (encode i).extractLsb' 0 8 = 0#8 ∧
    (row.usesRA = false → (encode i).extractLsb' 22 2 = 0#2) ∧
    (row.usesRB = false → (encode i).extractLsb' 20 2 = 0#2) ∧
    (row.usesCI = false → (encode i).extractLsb' 18 2 = 0#2) ∧
    (row.usesW = false → (encode i).extractLsb' 16 2 = 0#2) ∧
    (row.usesF = false → (encode i).extractLsb' 8 8 = 0#8)

/-- A word packed from fields reads back as those fields. -/
theorem packWord_fields (op : BitVec 8) (ra rb ci w : BitVec 2) (f : BitVec 8) :
    (packWord op ra rb ci w f).extractLsb' 24 8 = op ∧ (packWord op ra rb ci w f).extractLsb' 22 2 = ra ∧
    (packWord op ra rb ci w f).extractLsb' 20 2 = rb ∧ (packWord op ra rb ci w f).extractLsb' 18 2 = ci ∧
    (packWord op ra rb ci w f).extractLsb' 16 2 = w ∧ (packWord op ra rb ci w f).extractLsb' 8 8 = f ∧
    (packWord op ra rb ci w f).extractLsb' 0 8 = 0#8 := by
  refine ⟨?_, ?_, ?_, ?_, ?_, ?_, ?_⟩ <;>
    (refine BitVec.eq_of_getLsbD_eq fun i hi => ?_
     simp only [packWord, BitVec.getLsbD_extractLsb', BitVec.getLsbD_append, hi, decide_true, Bool.true_and]
     interval_cases i <;> simp)

/-- The form of a word whose opcode, unlike its other fields, is known. -/
theorem of_packWord {i : Instr} {op : BitVec 8} {ra rb ci w : BitVec 2} {f : BitVec 8} {row : OpRow}
    (hi : encode i = packWord op ra rb ci w f) (hrow : opMap op.toNat = some row)
    (hra : row.usesRA = false → ra = 0#2) (hrb : row.usesRB = false → rb = 0#2)
    (hci : row.usesCI = false → ci = 0#2) (hw : row.usesW = false → w = 0#2)
    (hf : row.usesF = false → f = 0#8) : Statement i := by
  obtain ⟨h1, h2, h3, h4, h5, h6, h7⟩ := packWord_fields op ra rb ci w f
  rw [Statement, hi, h1, h2, h3, h4, h5, h6, h7]
  exact ⟨row, hrow, rfl, hra, hrb, hci, hw, hf⟩

theorem add (ra : Reg) (rb : Reg) (ci : BitVec 2) : Statement (.add ra rb ci) :=
  of_packWord rfl rfl nofun nofun nofun (fun _ => rfl) (fun _ => rfl)

theorem sub (ra : Reg) (rb : Reg) (ci : BitVec 2) : Statement (.sub ra rb ci) :=
  of_packWord rfl rfl nofun nofun nofun (fun _ => rfl) (fun _ => rfl)

theorem and (ra : Reg) (rb : Reg) : Statement (.and ra rb) :=
  of_packWord rfl rfl nofun nofun (fun _ => rfl) (fun _ => rfl) (fun _ => rfl)

theorem or (ra : Reg) (rb : Reg) : Statement (.or ra rb) :=
  of_packWord rfl rfl nofun nofun (fun _ => rfl) (fun _ => rfl) (fun _ => rfl)

theorem xor (ra : Reg) (rb : Reg) : Statement (.xor ra rb) :=
  of_packWord rfl rfl nofun nofun (fun _ => rfl) (fun _ => rfl) (fun _ => rfl)

theorem cmp (ra : Reg) (rb : Reg) : Statement (.cmp ra rb) :=
  of_packWord rfl rfl nofun nofun (fun _ => rfl) (fun _ => rfl) (fun _ => rfl)

theorem shl (ra : Reg) : Statement (.shl ra) :=
  of_packWord rfl rfl nofun (fun _ => rfl) (fun _ => rfl) (fun _ => rfl) (fun _ => rfl)

theorem shr (ra : Reg) : Statement (.shr ra) :=
  of_packWord rfl rfl nofun (fun _ => rfl) (fun _ => rfl) (fun _ => rfl) (fun _ => rfl)

theorem sar (ra : Reg) : Statement (.sar ra) :=
  of_packWord rfl rfl nofun (fun _ => rfl) (fun _ => rfl) (fun _ => rfl) (fun _ => rfl)

theorem muls (ra : Reg) (rb : Reg) : Statement (.muls ra rb) :=
  of_packWord rfl rfl nofun nofun (fun _ => rfl) (fun _ => rfl) (fun _ => rfl)

theorem divs (ra : Reg) (rb : Reg) : Statement (.divs ra rb) :=
  of_packWord rfl rfl nofun nofun (fun _ => rfl) (fun _ => rfl) (fun _ => rfl)

theorem sext (ra : Reg) (w : BitVec 2) : Statement (.sext ra w) :=
  of_packWord rfl rfl nofun (fun _ => rfl) (fun _ => rfl) nofun (fun _ => rfl)

theorem setu8 (ra : Reg) : Statement (.setu8 ra) :=
  of_packWord rfl rfl nofun (fun _ => rfl) (fun _ => rfl) (fun _ => rfl) (fun _ => rfl)

theorem setu16 (ra : Reg) : Statement (.setu16 ra) :=
  of_packWord rfl rfl nofun (fun _ => rfl) (fun _ => rfl) (fun _ => rfl) (fun _ => rfl)

theorem setu32 (ra : Reg) : Statement (.setu32 ra) :=
  of_packWord rfl rfl nofun (fun _ => rfl) (fun _ => rfl) (fun _ => rfl) (fun _ => rfl)

theorem setu64 (ra : Reg) : Statement (.setu64 ra) :=
  of_packWord rfl rfl nofun (fun _ => rfl) (fun _ => rfl) (fun _ => rfl) (fun _ => rfl)

theorem seti8 (ra : Reg) : Statement (.seti8 ra) :=
  of_packWord rfl rfl nofun (fun _ => rfl) (fun _ => rfl) (fun _ => rfl) (fun _ => rfl)

theorem seti16 (ra : Reg) : Statement (.seti16 ra) :=
  of_packWord rfl rfl nofun (fun _ => rfl) (fun _ => rfl) (fun _ => rfl) (fun _ => rfl)

theorem seti32 (ra : Reg) : Statement (.seti32 ra) :=
  of_packWord rfl rfl nofun (fun _ => rfl) (fun _ => rfl) (fun _ => rfl) (fun _ => rfl)

theorem seti64 (ra : Reg) : Statement (.seti64 ra) :=
  of_packWord rfl rfl nofun (fun _ => rfl) (fun _ => rfl) (fun _ => rfl) (fun _ => rfl)

theorem getu8 (ra : Reg) : Statement (.getu8 ra) :=
  of_packWord rfl rfl nofun (fun _ => rfl) (fun _ => rfl) (fun _ => rfl) (fun _ => rfl)

theorem getu16 (ra : Reg) : Statement (.getu16 ra) :=
  of_packWord rfl rfl nofun (fun _ => rfl) (fun _ => rfl) (fun _ => rfl) (fun _ => rfl)

theorem getu32 (ra : Reg) : Statement (.getu32 ra) :=
  of_packWord rfl rfl nofun (fun _ => rfl) (fun _ => rfl) (fun _ => rfl) (fun _ => rfl)

theorem getu64 (ra : Reg) : Statement (.getu64 ra) :=
  of_packWord rfl rfl nofun (fun _ => rfl) (fun _ => rfl) (fun _ => rfl) (fun _ => rfl)

theorem geti8 (ra : Reg) : Statement (.geti8 ra) :=
  of_packWord rfl rfl nofun (fun _ => rfl) (fun _ => rfl) (fun _ => rfl) (fun _ => rfl)

theorem geti16 (ra : Reg) : Statement (.geti16 ra) :=
  of_packWord rfl rfl nofun (fun _ => rfl) (fun _ => rfl) (fun _ => rfl) (fun _ => rfl)

theorem geti32 (ra : Reg) : Statement (.geti32 ra) :=
  of_packWord rfl rfl nofun (fun _ => rfl) (fun _ => rfl) (fun _ => rfl) (fun _ => rfl)

theorem geti64 (ra : Reg) : Statement (.geti64 ra) :=
  of_packWord rfl rfl nofun (fun _ => rfl) (fun _ => rfl) (fun _ => rfl) (fun _ => rfl)

theorem swrd : Statement .swrd :=
  of_packWord rfl rfl (fun _ => rfl) (fun _ => rfl) (fun _ => rfl) (fun _ => rfl) (fun _ => rfl)

theorem setc : Statement .setc :=
  of_packWord rfl rfl (fun _ => rfl) (fun _ => rfl) (fun _ => rfl) (fun _ => rfl) (fun _ => rfl)

theorem clrc : Statement .clrc :=
  of_packWord rfl rfl (fun _ => rfl) (fun _ => rfl) (fun _ => rfl) (fun _ => rfl) (fun _ => rfl)

theorem getc : Statement .getc :=
  of_packWord rfl rfl (fun _ => rfl) (fun _ => rfl) (fun _ => rfl) (fun _ => rfl) (fun _ => rfl)

theorem setv : Statement .setv :=
  of_packWord rfl rfl (fun _ => rfl) (fun _ => rfl) (fun _ => rfl) (fun _ => rfl) (fun _ => rfl)

theorem clrv : Statement .clrv :=
  of_packWord rfl rfl (fun _ => rfl) (fun _ => rfl) (fun _ => rfl) (fun _ => rfl) (fun _ => rfl)

theorem getv : Statement .getv :=
  of_packWord rfl rfl (fun _ => rfl) (fun _ => rfl) (fun _ => rfl) (fun _ => rfl) (fun _ => rfl)

theorem setz : Statement .setz :=
  of_packWord rfl rfl (fun _ => rfl) (fun _ => rfl) (fun _ => rfl) (fun _ => rfl) (fun _ => rfl)

theorem clrz : Statement .clrz :=
  of_packWord rfl rfl (fun _ => rfl) (fun _ => rfl) (fun _ => rfl) (fun _ => rfl) (fun _ => rfl)

theorem getz : Statement .getz :=
  of_packWord rfl rfl (fun _ => rfl) (fun _ => rfl) (fun _ => rfl) (fun _ => rfl) (fun _ => rfl)

theorem setn : Statement .setn :=
  of_packWord rfl rfl (fun _ => rfl) (fun _ => rfl) (fun _ => rfl) (fun _ => rfl) (fun _ => rfl)

theorem clrn : Statement .clrn :=
  of_packWord rfl rfl (fun _ => rfl) (fun _ => rfl) (fun _ => rfl) (fun _ => rfl) (fun _ => rfl)

theorem getn : Statement .getn :=
  of_packWord rfl rfl (fun _ => rfl) (fun _ => rfl) (fun _ => rfl) (fun _ => rfl) (fun _ => rfl)

theorem setid : Statement .setid :=
  of_packWord rfl rfl (fun _ => rfl) (fun _ => rfl) (fun _ => rfl) (fun _ => rfl) (fun _ => rfl)

theorem clrid : Statement .clrid :=
  of_packWord rfl rfl (fun _ => rfl) (fun _ => rfl) (fun _ => rfl) (fun _ => rfl) (fun _ => rfl)

theorem getid : Statement .getid :=
  of_packWord rfl rfl (fun _ => rfl) (fun _ => rfl) (fun _ => rfl) (fun _ => rfl) (fun _ => rfl)

theorem selam : Statement .selam :=
  of_packWord rfl rfl (fun _ => rfl) (fun _ => rfl) (fun _ => rfl) (fun _ => rfl) (fun _ => rfl)

theorem getam : Statement .getam :=
  of_packWord rfl rfl (fun _ => rfl) (fun _ => rfl) (fun _ => rfl) (fun _ => rfl) (fun _ => rfl)

theorem selrs : Statement .selrs :=
  of_packWord rfl rfl (fun _ => rfl) (fun _ => rfl) (fun _ => rfl) (fun _ => rfl) (fun _ => rfl)

theorem getrs : Statement .getrs :=
  of_packWord rfl rfl (fun _ => rfl) (fun _ => rfl) (fun _ => rfl) (fun _ => rfl) (fun _ => rfl)

theorem selps : Statement .selps :=
  of_packWord rfl rfl (fun _ => rfl) (fun _ => rfl) (fun _ => rfl) (fun _ => rfl) (fun _ => rfl)

theorem getps : Statement .getps :=
  of_packWord rfl rfl (fun _ => rfl) (fun _ => rfl) (fun _ => rfl) (fun _ => rfl) (fun _ => rfl)

theorem selcs : Statement .selcs :=
  of_packWord rfl rfl (fun _ => rfl) (fun _ => rfl) (fun _ => rfl) (fun _ => rfl) (fun _ => rfl)

theorem getcs : Statement .getcs :=
  of_packWord rfl rfl (fun _ => rfl) (fun _ => rfl) (fun _ => rfl) (fun _ => rfl) (fun _ => rfl)

theorem selos : Statement .selos :=
  of_packWord rfl rfl (fun _ => rfl) (fun _ => rfl) (fun _ => rfl) (fun _ => rfl) (fun _ => rfl)

theorem getos : Statement .getos :=
  of_packWord rfl rfl (fun _ => rfl) (fun _ => rfl) (fun _ => rfl) (fun _ => rfl) (fun _ => rfl)

theorem selmm : Statement .selmm :=
  of_packWord rfl rfl (fun _ => rfl) (fun _ => rfl) (fun _ => rfl) (fun _ => rfl) (fun _ => rfl)

theorem getmm : Statement .getmm :=
  of_packWord rfl rfl (fun _ => rfl) (fun _ => rfl) (fun _ => rfl) (fun _ => rfl) (fun _ => rfl)

theorem setsys : Statement .setsys :=
  of_packWord rfl rfl (fun _ => rfl) (fun _ => rfl) (fun _ => rfl) (fun _ => rfl) (fun _ => rfl)

theorem getsys : Statement .getsys :=
  of_packWord rfl rfl (fun _ => rfl) (fun _ => rfl) (fun _ => rfl) (fun _ => rfl) (fun _ => rfl)

theorem setusr : Statement .setusr :=
  of_packWord rfl rfl (fun _ => rfl) (fun _ => rfl) (fun _ => rfl) (fun _ => rfl) (fun _ => rfl)

theorem getusr : Statement .getusr :=
  of_packWord rfl rfl (fun _ => rfl) (fun _ => rfl) (fun _ => rfl) (fun _ => rfl) (fun _ => rfl)

theorem rfrd (f : BitVec 8) : Statement (.rfrd f) :=
  of_packWord rfl rfl (fun _ => rfl) (fun _ => rfl) (fun _ => rfl) (fun _ => rfl) nofun

theorem rfwr (f : BitVec 8) : Statement (.rfwr f) :=
  of_packWord rfl rfl (fun _ => rfl) (fun _ => rfl) (fun _ => rfl) (fun _ => rfl) nofun

theorem reset : Statement .reset :=
  of_packWord rfl rfl (fun _ => rfl) (fun _ => rfl) (fun _ => rfl) (fun _ => rfl) (fun _ => rfl)

theorem push8 : Statement .push8 :=
  of_packWord rfl rfl (fun _ => rfl) (fun _ => rfl) (fun _ => rfl) (fun _ => rfl) (fun _ => rfl)

theorem push16 : Statement .push16 :=
  of_packWord rfl rfl (fun _ => rfl) (fun _ => rfl) (fun _ => rfl) (fun _ => rfl) (fun _ => rfl)

theorem push32 : Statement .push32 :=
  of_packWord rfl rfl (fun _ => rfl) (fun _ => rfl) (fun _ => rfl) (fun _ => rfl) (fun _ => rfl)

theorem push64 : Statement .push64 :=
  of_packWord rfl rfl (fun _ => rfl) (fun _ => rfl) (fun _ => rfl) (fun _ => rfl) (fun _ => rfl)

theorem pop8 : Statement .pop8 :=
  of_packWord rfl rfl (fun _ => rfl) (fun _ => rfl) (fun _ => rfl) (fun _ => rfl) (fun _ => rfl)

theorem pop16 : Statement .pop16 :=
  of_packWord rfl rfl (fun _ => rfl) (fun _ => rfl) (fun _ => rfl) (fun _ => rfl) (fun _ => rfl)

theorem pop32 : Statement .pop32 :=
  of_packWord rfl rfl (fun _ => rfl) (fun _ => rfl) (fun _ => rfl) (fun _ => rfl) (fun _ => rfl)

theorem pop64 : Statement .pop64 :=
  of_packWord rfl rfl (fun _ => rfl) (fun _ => rfl) (fun _ => rfl) (fun _ => rfl) (fun _ => rfl)

end Sys2Proof.Laws.EncodingForm
end

