-- ==== Sys2Proof/Tests/Slice0.lean ====
section
/-! SUPPORT. Tests: what WellFormed refuses, every command's word decoded, one step of every command on a vector of
95_test_vectors.md or an example of the command's rule, and, for every statement with hypotheses, a state
and operands that meet them. Words and expected results come from the spec. -/

namespace Sys2Proof.Tests

open Sys2Proof Sys2Proof.Machine

/-- Reset but for R0, R1, SW and the data input. -/
def regs (x0 x1 : BitVec 64) (sw : BitVec 32) (d : BitVec 64) : State :=
  { State.reset with rf := { RegisterFile.reset with x0 := x0, x1 := x1, sw := sw }, d := d }

/-- Reset but for an 8-byte buffer (STK_LEN = 8, STK_TOP = 7), its contents, the pointer and the data input. -/
def stack (ptr : BitVec 32) (mem : Memory) (d : BitVec 64) : State :=
  { State.reset with stk := { ptr := ptr, mem := mem }, d := d,
                     params := { Params.default with stkLen := 8, stkTop := 7#32 } }

/-- The block after one step on the command word `w`, its inputs otherwise as `s` holds them. -/
def after (w : Nat) (s : State) : Option State := blockAfter (step (s.withFetchWord 32 w))

/-- R0, SW and the error number. -/
def seeA (o : Option State) : Option (BitVec 64 × BitVec 32 × BitVec 3) :=
  o.map fun t => (t.rf.x0, t.rf.sw, t.err.number)

/-- R0, R1, SW and the error number. -/
def seeAB (o : Option State) : Option (BitVec 64 × BitVec 64 × BitVec 32 × BitVec 3) :=
  o.map fun t => (t.rf.x0, t.rf.x1, t.rf.sw, t.err.number)

/-- The data output, SW and the error number. -/
def seeQ (o : Option State) : Option (BitVec 64 × BitVec 32 × BitVec 3) :=
  o.map fun t => (t.q, t.rf.sw, t.err.number)

/-- The stack pointer, the listed bytes, the data output and the error number. -/
def seeStack (o : Option State) : Option (BitVec 32 × Memory × BitVec 64 × BitVec 3) :=
  o.map fun t => (t.stk.ptr, t.stk.mem, t.q, t.err.number)

/-! ## WellFormed (30_encoding.md R68, R70) -/

theorem test_wellformed_refuses_add_carry_select_3 : (Instr.add .r0 .r1 3#2).wellFormed = false := by decide
theorem test_wellformed_refuses_sub_carry_select_3 : (Instr.sub .r0 .r1 3#2).wellFormed = false := by decide
theorem test_wellformed_refuses_rfrd_15 : (Instr.rfrd 15#8).wellFormed = false := by decide
theorem test_wellformed_refuses_rfwr_15 : (Instr.rfwr 15#8).wellFormed = false := by decide
theorem test_wellformed_takes_the_largest_legal_fields :
    (Instr.add .r3 .r3 2#2).wellFormed = true ∧ (Instr.sub .r3 .r3 2#2).wellFormed = true ∧
    (Instr.rfrd 14#8).wellFormed = true ∧ (Instr.rfwr 14#8).wellFormed = true ∧
    (Instr.sext .r3 3#2).wellFormed = true := by decide

/-! ## Decoding (30_encoding.md R66, R72): words written out field by field -/

/-- ADD 00010000 and SUB 00010001, RA in 23:22, RB in 21:20, CI in 19:18. -/
theorem test_decode_add_sub :
    decode 0x10780000#32 = .ok (.add .r1 .r3 2#2) ∧
    decode 0x10100000#32 = .ok (.add .r0 .r1 0#2) ∧
    decode 0x11F40000#32 = .ok (.sub .r3 .r3 1#2) ∧
    decode 0x11980000#32 = .ok (.sub .r2 .r1 2#2) := by decide

/-- AND, OR, XOR, CMP. -/
theorem test_decode_logic :
    decode 0x12700000#32 = .ok (.and .r1 .r3) ∧
    decode 0x13900000#32 = .ok (.or .r2 .r1) ∧
    decode 0x14500000#32 = .ok (.xor .r1 .r1) ∧
    decode 0x15C00000#32 = .ok (.cmp .r3 .r0) := by decide

/-- SHL, SHR, SAR. -/
theorem test_decode_shift :
    decode 0x16400000#32 = .ok (.shl .r1) ∧
    decode 0x17800000#32 = .ok (.shr .r2) ∧
    decode 0x18C00000#32 = .ok (.sar .r3) := by decide

/-- MULS, DIVS, SEXT with W in 17:16. -/
theorem test_decode_multiply_divide_extend :
    decode 0x19A00000#32 = .ok (.muls .r2 .r2) ∧
    decode 0x1AB00000#32 = .ok (.divs .r2 .r3) ∧
    decode 0x1B020000#32 = .ok (.sext .r0 2#2) ∧
    decode 0x1BC30000#32 = .ok (.sext .r3 3#2) := by decide

/-- SETUn and SETIn. -/
theorem test_decode_setters :
    decode 0x20400000#32 = .ok (.setu8 .r1) ∧
    decode 0x21800000#32 = .ok (.setu16 .r2) ∧
    decode 0x22C00000#32 = .ok (.setu32 .r3) ∧
    decode 0x23000000#32 = .ok (.setu64 .r0) ∧
    decode 0x24400000#32 = .ok (.seti8 .r1) ∧
    decode 0x25800000#32 = .ok (.seti16 .r2) ∧
    decode 0x26C00000#32 = .ok (.seti32 .r3) ∧
    decode 0x27000000#32 = .ok (.seti64 .r0) := by decide

/-- GETUn and GETIn. -/
theorem test_decode_accessors :
    decode 0x28C00000#32 = .ok (.getu8 .r3) ∧
    decode 0x29800000#32 = .ok (.getu16 .r2) ∧
    decode 0x2A400000#32 = .ok (.getu32 .r1) ∧
    decode 0x2B000000#32 = .ok (.getu64 .r0) ∧
    decode 0x2CC00000#32 = .ok (.geti8 .r3) ∧
    decode 0x2D800000#32 = .ok (.geti16 .r2) ∧
    decode 0x2E400000#32 = .ok (.geti32 .r1) ∧
    decode 0x2F000000#32 = .ok (.geti64 .r0) := by decide

/-- SWRD and the flag commands. -/
theorem test_decode_flags :
    decode 0x30000000#32 = .ok .swrd ∧
    decode 0x31000000#32 = .ok .setc ∧
    decode 0x32000000#32 = .ok .clrc ∧
    decode 0x33000000#32 = .ok .getc ∧
    decode 0x34000000#32 = .ok .setv ∧
    decode 0x35000000#32 = .ok .clrv ∧
    decode 0x36000000#32 = .ok .getv ∧
    decode 0x37000000#32 = .ok .setz ∧
    decode 0x38000000#32 = .ok .clrz ∧
    decode 0x39000000#32 = .ok .getz ∧
    decode 0x3A000000#32 = .ok .setn ∧
    decode 0x3B000000#32 = .ok .clrn ∧
    decode 0x3C000000#32 = .ok .getn ∧
    decode 0x3D000000#32 = .ok .setid ∧
    decode 0x3E000000#32 = .ok .clrid ∧
    decode 0x3F000000#32 = .ok .getid := by decide

/-- The selectors and the byte fields. -/
theorem test_decode_fields :
    decode 0x40000000#32 = .ok .selam ∧
    decode 0x41000000#32 = .ok .getam ∧
    decode 0x42000000#32 = .ok .selrs ∧
    decode 0x43000000#32 = .ok .getrs ∧
    decode 0x44000000#32 = .ok .selps ∧
    decode 0x45000000#32 = .ok .getps ∧
    decode 0x46000000#32 = .ok .selcs ∧
    decode 0x47000000#32 = .ok .getcs ∧
    decode 0x48000000#32 = .ok .selos ∧
    decode 0x49000000#32 = .ok .getos ∧
    decode 0x4A000000#32 = .ok .selmm ∧
    decode 0x4B000000#32 = .ok .getmm ∧
    decode 0x4C000000#32 = .ok .setsys ∧
    decode 0x4D000000#32 = .ok .getsys ∧
    decode 0x4E000000#32 = .ok .setusr ∧
    decode 0x4F000000#32 = .ok .getusr := by decide

/-- RFRD and RFWR with F in 15:8, RESET. -/
theorem test_decode_register_file :
    decode 0x50000D00#32 = .ok (.rfrd 13#8) ∧
    decode 0x51000C00#32 = .ok (.rfwr 12#8) ∧
    decode 0x50000E00#32 = .ok (.rfrd 14#8) ∧
    decode 0x51000000#32 = .ok (.rfwr 0#8) ∧
    decode 0x52000000#32 = .ok .reset := by decide

/-- PUSHn and POPn. -/
theorem test_decode_stack :
    decode 0x60000000#32 = .ok .push8 ∧
    decode 0x61000000#32 = .ok .push16 ∧
    decode 0x62000000#32 = .ok .push32 ∧
    decode 0x63000000#32 = .ok .push64 ∧
    decode 0x64000000#32 = .ok .pop8 ∧
    decode 0x65000000#32 = .ok .pop16 ∧
    decode 0x66000000#32 = .ok .pop32 ∧
    decode 0x67000000#32 = .ok .pop64 := by decide

/-- 95_test_vectors.md 2.1. -/
theorem test_decode_rejects :
    decode 0x00000000#32 = .error .reservedOpcode ∧ decode 0x1C000000#32 = .error .reservedOpcode ∧
    decode 0x53000000#32 = .error .reservedOpcode ∧ decode 0xFF000000#32 = .error .reservedOpcode ∧
    decode 0x10000001#32 = .error .reservedBits ∧ decode 0x100C0000#32 = .error .illegalCarrySelect ∧
    decode 0x10010000#32 = .error .unusedField ∧ decode 0x12040000#32 = .error .unusedField ∧
    decode 0x50000F00#32 = .error .illegalRegisterNumber ∧ decode 0x51FF0000#32 = .error .unusedField ∧
    decode 0x52400000#32 = .error .unusedField ∧ decode 0x30000100#32 = .error .unusedField := by decide

/-- The encoder writes the words of 95_test_vectors.md. -/
theorem test_encode_words :
    encode (.add .r1 .r3 2#2) = 0x10780000#32 ∧ encode (.divs .r2 .r3) = 0x1AB00000#32 ∧
    encode (.sext .r0 2#2) = 0x1B020000#32 ∧ encode (.rfwr 12#8) = 0x51000C00#32 ∧
    encode .pop64 = 0x67000000#32 := by decide

/-- The host reads the same bits. -/
theorem test_decode_table_word :
    decodeTableWord 32 0x10780000 = some (.add .r1 .r3 2#2) ∧ decodeTableWord 32 0 = none := by decide

/-! ## One step (95_test_vectors.md; the examples of the rules) -/

/-- E3. -/
theorem test_add_overflows_8_bits :
    seeAB (after 0x10100000 (regs 0x7F#64 0x1#64 0x00000000#32 0x0#64)) =
      some (0xFFFFFFFFFFFFFF80#64, 0x1#64, 0x50000000#32, 0#3) := by decide

/-- 2.3: b all-ones, cin = SW.C = 1, C = 0. -/
theorem test_add_all_ones_with_carry_in :
    seeAB (after 0x10180000 (regs 0x5#64 0xFFFFFFFFFFFFFFFF#64 0x80000000#32 0x0#64)) =
      some (0x5#64, 0xFFFFFFFFFFFFFFFF#64, 0x00000000#32, 0#3) := by decide

/-- 2.3: -128 - 1. -/
theorem test_sub_overflows_8_bits :
    seeAB (after 0x11100000 (regs 0xFFFFFFFFFFFFFF80#64 0x1#64 0x00000000#32 0x0#64)) =
      some (0x7F#64, 0x1#64, 0xC0000000#32, 0#3) := by decide

/-- 2.3: 0 - 1. -/
theorem test_sub_borrows :
    seeAB (after 0x11100000 (regs 0x0#64 0x1#64 0x000C0000#32 0x0#64)) =
      some (0xFFFFFFFFFFFFFFFF#64, 0x1#64, 0x100C0000#32, 0#3) := by decide

/-- 2.3. -/
theorem test_and_narrows :
    seeAB (after 0x12100000 (regs 0x1234#64 0xFFFF#64 0x00000000#32 0x0#64)) =
      some (0x34#64, 0xFFFF#64, 0x00000000#32, 0#3) := by decide

/-- 2.3. -/
theorem test_or_extends :
    seeAB (after 0x13100000 (regs 0x0#64 0x80#64 0x00000000#32 0x0#64)) =
      some (0xFFFFFFFFFFFFFF80#64, 0x80#64, 0x10000000#32, 0#3) := by decide

/-- 2.3. -/
theorem test_xor_16_bits :
    seeAB (after 0x14100000 (regs 0xFF#64 0xFF00#64 0x00040000#32 0x0#64)) =
      some (0xFFFFFFFFFFFFFFFF#64, 0xFF00#64, 0x10040000#32, 0#3) := by decide

/-- E5. -/
theorem test_cmp_signed_greater :
    seeAB (after 0x15100000 (regs 0x1#64 0xFFFFFFFFFFFFFF80#64 0x00000000#32 0x0#64)) =
      some (0x1#64, 0xFFFFFFFFFFFFFF80#64, 0x40000000#32, 0#3) := by decide

/-- 2.3. -/
theorem test_cmp_equal_keeps_n :
    seeAB (after 0x15100000 (regs 0x7#64 0x7#64 0x100C0000#32 0x0#64)) =
      some (0x7#64, 0x7#64, 0xF00C0000#32, 0#3) := by decide

/-- 2.3. -/
theorem test_shl_into_the_sign :
    seeAB (after 0x16000000 (regs 0x40#64 0x0#64 0x00000000#32 0x1#64)) =
      some (0xFFFFFFFFFFFFFF80#64, 0x0#64, 0x10000000#32, 0#3) := by decide

/-- 2.3. -/
theorem test_shl_by_64 :
    seeAB (after 0x16000000 (regs 0x1#64 0x0#64 0x000C0000#32 0x40#64)) =
      some (0x0#64, 0x0#64, 0x200C0000#32, 0#3) := by decide

/-- 2.3. -/
theorem test_shr_8_bits :
    seeAB (after 0x17000000 (regs 0xFFFFFFFFFFFFFF80#64 0x0#64 0x00000000#32 0x1#64)) =
      some (0x40#64, 0x0#64, 0x00000000#32, 0#3) := by decide

/-- 2.3. -/
theorem test_shr_by_0 :
    seeAB (after 0x17000000 (regs 0xFFFFFFFFFFFFFF80#64 0x0#64 0x00000000#32 0x0#64)) =
      some (0xFFFFFFFFFFFFFF80#64, 0x0#64, 0x10000000#32, 0#3) := by decide

/-- E8. -/
theorem test_sar_saturates :
    seeAB (after 0x18000000 (regs 0xFFFFFFFFFFFFFF85#64 0x0#64 0x00000000#32 0x3B9ACA00#64)) =
      some (0xFFFFFFFFFFFFFFFF#64, 0x0#64, 0x10000000#32, 0#3) := by decide

/-- 2.3. -/
theorem test_sar_by_1 :
    seeAB (after 0x18000000 (regs 0xFFFFFFFFFFFFFF85#64 0x0#64 0x00000000#32 0x1#64)) =
      some (0xFFFFFFFFFFFFFFC2#64, 0x0#64, 0x10000000#32, 0#3) := by decide

/-- 2.3. -/
theorem test_muls_16_bits_not_narrowed :
    seeAB (after 0x19100000 (regs 0x7FFF#64 0x7FFF#64 0x00040000#32 0x0#64)) =
      some (0x3FFF0001#64, 0x7FFF#64, 0x00040000#32, 0#3) := by decide

/-- 2.3: WIDE. -/
theorem test_muls_64_bits_negative :
    seeAB (after 0x19100000 (regs 0x7FFFFFFFFFFFFFFF#64 0xFFFFFFFFFFFFFFFE#64 0x000C0000#32 0x0#64)) =
      some (0x2#64, 0xFFFFFFFFFFFFFFFF#64, 0x100C0000#32, 0#3) := by decide

/-- E6: -7 / 2. -/
theorem test_divs_truncates :
    seeAB (after 0x1A100000 (regs 0xFFFFFFFFFFFFFFF9#64 0x2#64 0x00000000#32 0x0#64)) =
      some (0xFFFFFFFFFFFFFFFD#64, 0xFFFFFFFFFFFFFFFF#64, 0x50000000#32, 0#3) := by decide

/-- E6: 7 / 0 changes nothing. -/
theorem test_divs_by_zero :
    seeAB (after 0x1A100000 (regs 0x7#64 0x0#64 0x00000000#32 0x0#64)) =
      some (0x7#64, 0x0#64, 0x00000000#32, 2#3) := by decide

/-- R117. -/
theorem test_sext_16 :
    seeAB (after 0x1B010000 (regs 0x123456789ABCDEF0#64 0x0#64 0x00000000#32 0x0#64)) =
      some (0xFFFFFFFFFFFFDEF0#64, 0x0#64, 0x00000000#32, 0#3) := by decide

theorem test_setu8 : seeAB (after 0x20400000 (regs 0#64 0x1111111111111111#64 0#32 0x17F#64)) =
    some (0#64, 0x7F#64, 0#32, 0#3) := by decide

theorem test_setu16 : seeAB (after 0x21400000 (regs 0#64 0x1111111111111111#64 0#32 0x8000#64)) =
    some (0#64, 0xFFFFFFFFFFFF8000#64, 0#32, 0#3) := by decide

theorem test_setu32 : seeAB (after 0x22400000 (regs 0#64 0x1111111111111111#64 0#32 0x80000000#64)) =
    some (0#64, 0xFFFFFFFF80000000#64, 0#32, 0#3) := by decide

theorem test_setu64 : seeAB (after 0x23400000 (regs 0#64 0x1111111111111111#64 0#32 0x80#64)) =
    some (0#64, 0x80#64, 0#32, 0#3) := by decide

theorem test_seti8 : seeAB (after 0x24400000 (regs 0#64 0x1111111111111111#64 0#32 0xFF#64)) =
    some (0#64, 0xFFFFFFFFFFFFFFFF#64, 0#32, 0#3) := by decide

theorem test_seti16 : seeAB (after 0x25400000 (regs 0#64 0x1111111111111111#64 0#32 0x7FFF#64)) =
    some (0#64, 0x7FFF#64, 0#32, 0#3) := by decide

theorem test_seti32 : seeAB (after 0x26400000 (regs 0#64 0x1111111111111111#64 0#32 0xFFFFFFFF#64)) =
    some (0#64, 0xFFFFFFFFFFFFFFFF#64, 0#32, 0#3) := by decide

theorem test_seti64 : seeAB (after 0x27400000 (regs 0#64 0x1111111111111111#64 0#32 0x8000000000000000#64)) =
    some (0#64, 0x8000000000000000#64, 0#32, 0#3) := by decide

theorem test_getu8 : seeQ (after 0x28400000 (regs 0#64 0xFEDCBA98F6548280#64 0x000C0000#32 0#64)) =
    some (0x80#64, 0x000C0000#32, 0#3) := by decide

theorem test_getu16 : seeQ (after 0x29400000 (regs 0#64 0xFEDCBA98F6548280#64 0x000C0000#32 0#64)) =
    some (0x8280#64, 0x000C0000#32, 0#3) := by decide

theorem test_getu32 : seeQ (after 0x2A400000 (regs 0#64 0xFEDCBA98F6548280#64 0x000C0000#32 0#64)) =
    some (0xF6548280#64, 0x000C0000#32, 0#3) := by decide

theorem test_getu64 : seeQ (after 0x2B400000 (regs 0#64 0xFEDCBA98F6548280#64 0x000C0000#32 0#64)) =
    some (0xFEDCBA98F6548280#64, 0x000C0000#32, 0#3) := by decide

theorem test_geti8 : seeQ (after 0x2C400000 (regs 0#64 0xFEDCBA98F6548280#64 0x000C0000#32 0#64)) =
    some (0xFFFFFFFFFFFFFF80#64, 0x000C0000#32, 0#3) := by decide

theorem test_geti16 : seeQ (after 0x2D400000 (regs 0#64 0xFEDCBA98F6548280#64 0x000C0000#32 0#64)) =
    some (0xFFFFFFFFFFFF8280#64, 0x000C0000#32, 0#3) := by decide

theorem test_geti32 : seeQ (after 0x2E400000 (regs 0#64 0xFEDCBA98F6548280#64 0x000C0000#32 0#64)) =
    some (0xFFFFFFFFF6548280#64, 0x000C0000#32, 0#3) := by decide

theorem test_geti64 : seeQ (after 0x2F400000 (regs 0#64 0xFEDCBA98F6548280#64 0x000C0000#32 0#64)) =
    some (0xFEDCBA98F6548280#64, 0x000C0000#32, 0#3) := by decide

theorem test_swrd : seeQ (after 0x30000000 (regs 0#64 0#64 0x800C0000#32 0#64)) =
    some (0x800C0000#64, 0x800C0000#32, 0#3) := by decide

/-! The flags: set in a word of ones with the flag clear, cleared from a word of ones, read (2.2). -/

theorem test_flag_c :
    seeQ (after 0x31000000 (regs 0#64 0#64 0x7FFFFFFF#32 0#64)) = some (0#64, 0xFFFFFFFF#32, 0#3) ∧
    seeQ (after 0x32000000 (regs 0#64 0#64 0xFFFFFFFF#32 0#64)) = some (0#64, 0x7FFFFFFF#32, 0#3) ∧
    seeQ (after 0x33000000 (regs 0#64 0#64 0x80000000#32 0#64)) = some (1#64, 0x80000000#32, 0#3) := by decide

theorem test_flag_v :
    seeQ (after 0x34000000 (regs 0#64 0#64 0xBFFFFFFF#32 0#64)) = some (0#64, 0xFFFFFFFF#32, 0#3) ∧
    seeQ (after 0x35000000 (regs 0#64 0#64 0xFFFFFFFF#32 0#64)) = some (0#64, 0xBFFFFFFF#32, 0#3) ∧
    seeQ (after 0x36000000 (regs 0#64 0#64 0x40000000#32 0#64)) = some (1#64, 0x40000000#32, 0#3) := by decide

theorem test_flag_z :
    seeQ (after 0x37000000 (regs 0#64 0#64 0xDFFFFFFF#32 0#64)) = some (0#64, 0xFFFFFFFF#32, 0#3) ∧
    seeQ (after 0x38000000 (regs 0#64 0#64 0xFFFFFFFF#32 0#64)) = some (0#64, 0xDFFFFFFF#32, 0#3) ∧
    seeQ (after 0x39000000 (regs 0#64 0#64 0x20000000#32 0#64)) = some (1#64, 0x20000000#32, 0#3) := by decide

theorem test_flag_n :
    seeQ (after 0x3A000000 (regs 0#64 0#64 0xEFFFFFFF#32 0#64)) = some (0#64, 0xFFFFFFFF#32, 0#3) ∧
    seeQ (after 0x3B000000 (regs 0#64 0#64 0xFFFFFFFF#32 0#64)) = some (0#64, 0xEFFFFFFF#32, 0#3) ∧
    seeQ (after 0x3C000000 (regs 0#64 0#64 0x10000000#32 0#64)) = some (1#64, 0x10000000#32, 0#3) := by decide

theorem test_flag_id :
    seeQ (after 0x3D000000 (regs 0#64 0#64 0xFEFFFFFF#32 0#64)) = some (0#64, 0xFFFFFFFF#32, 0#3) ∧
    seeQ (after 0x3E000000 (regs 0#64 0#64 0xFFFFFFFF#32 0#64)) = some (0#64, 0xFEFFFFFF#32, 0#3) ∧
    seeQ (after 0x3F000000 (regs 0#64 0#64 0x01000000#32 0#64)) = some (1#64, 0x01000000#32, 0#3) := by decide

/-! The selectors: the largest legal value written, the next one refused, the field read (2.2). -/

theorem test_field_am :
    seeQ (after 0x40000000 (regs 0#64 0#64 0x5A5A5A5A#32 7#64)) = some (0#64, 0x5E5A5A5A#32, 0#3) ∧
    seeQ (after 0x40000000 (regs 0#64 0#64 0x5E5A5A5A#32 8#64)) = some (0#64, 0x5E5A5A5A#32, 1#3) ∧
    seeQ (after 0x41000000 (regs 0#64 0#64 0x5E5A5A5A#32 0#64)) = some (7#64, 0x5E5A5A5A#32, 0#3) := by decide

theorem test_field_rs :
    seeQ (after 0x42000000 (regs 0#64 0#64 0x5A5A5A5A#32 3#64)) = some (0#64, 0x5ADA5A5A#32, 0#3) ∧
    seeQ (after 0x42000000 (regs 0#64 0#64 0x5ADA5A5A#32 4#64)) = some (0#64, 0x5ADA5A5A#32, 1#3) ∧
    seeQ (after 0x43000000 (regs 0#64 0#64 0x5ADA5A5A#32 0#64)) = some (3#64, 0x5ADA5A5A#32, 0#3) := by decide

theorem test_field_ps :
    seeQ (after 0x44000000 (regs 0#64 0#64 0x5A5A5A5A#32 1#64)) = some (0#64, 0x5A7A5A5A#32, 0#3) ∧
    seeQ (after 0x44000000 (regs 0#64 0#64 0x5A7A5A5A#32 2#64)) = some (0#64, 0x5A7A5A5A#32, 1#3) ∧
    seeQ (after 0x45000000 (regs 0#64 0#64 0x5A7A5A5A#32 0#64)) = some (1#64, 0x5A7A5A5A#32, 0#3) := by decide

theorem test_field_cs :
    seeQ (after 0x46000000 (regs 0#64 0#64 0x5A5A5A5A#32 1#64)) = some (0#64, 0x5A5A5A5A#32, 0#3) ∧
    seeQ (after 0x46000000 (regs 0#64 0#64 0x5A5A5A5A#32 2#64)) = some (0#64, 0x5A5A5A5A#32, 1#3) ∧
    seeQ (after 0x47000000 (regs 0#64 0#64 0x5A5A5A5A#32 0#64)) = some (1#64, 0x5A5A5A5A#32, 0#3) := by decide

theorem test_field_os :
    seeQ (after 0x48000000 (regs 0#64 0#64 0x5A5A5A5A#32 3#64)) = some (0#64, 0x5A5E5A5A#32, 0#3) ∧
    seeQ (after 0x48000000 (regs 0#64 0#64 0x5A5E5A5A#32 4#64)) = some (0#64, 0x5A5E5A5A#32, 1#3) ∧
    seeQ (after 0x49000000 (regs 0#64 0#64 0x5A5E5A5A#32 0#64)) = some (3#64, 0x5A5E5A5A#32, 0#3) := by decide

theorem test_field_mm :
    seeQ (after 0x4A000000 (regs 0#64 0#64 0x5A5A5A5A#32 3#64)) = some (0#64, 0x5A5B5A5A#32, 0#3) ∧
    seeQ (after 0x4A000000 (regs 0#64 0#64 0x5A5B5A5A#32 4#64)) = some (0#64, 0x5A5B5A5A#32, 1#3) ∧
    seeQ (after 0x4B000000 (regs 0#64 0#64 0x5A5B5A5A#32 0#64)) = some (3#64, 0x5A5B5A5A#32, 0#3) := by decide

/-- 2.2, decision D21: high bits of the input are not masked off. -/
theorem test_select_checks_the_whole_input :
    seeQ (after 0x40000000 (regs 0#64 0#64 0#32 0x8000000000000003#64)) = some (0#64, 0#32, 1#3) := by decide

/-- 2.2. -/
theorem test_byte_fields :
    seeQ (after 0x4C000000 (regs 0#64 0#64 0#32 0x1A5#64)) = some (0#64, 0x0000A500#32, 0#3) ∧
    seeQ (after 0x4E000000 (regs 0#64 0#64 0x0000A500#32 0xFF#64)) = some (0#64, 0x0000A5FF#32, 0#3) ∧
    seeQ (after 0x4D000000 (regs 0#64 0#64 0x0000A5FF#32 0#64)) = some (0xA5#64, 0x0000A5FF#32, 0#3) ∧
    seeQ (after 0x4F000000 (regs 0#64 0#64 0x0000A5FF#32 0#64)) = some (0xFF#64, 0x0000A5FF#32, 0#3) := by
  decide

/-- 2.6. -/
theorem test_rfrd : seeQ (after 0x50000D00 State.reset) = some (0xFFFE0000#64, 0#32, 0#3) ∧
    seeQ (after 0x50000E00 State.reset) = some (0xFFFF#64, 0#32, 0#3) := by decide

/-- 2.6: truncated to the width, and SP changes without the Stack unit's pointer. -/
theorem test_rfwr :
    (after 0x51000200 (regs 0#64 0#64 0#32 0x12345#64)).map (fun t => t.rf.ofs0) = some 0x2345#16 ∧
    (after 0x51000E00 (regs 0#64 0#64 0#32 0x1FFFE#64)).map (fun t => (t.rf.sp, t.stk.ptr))
      = some (0xFFFE#16, 65535#32) := by decide

/-- 2.6. -/
theorem test_reset_command :
    (after 0x52000000 { stack 6#32 [(7, 0x99#8)] 0#64 with
        rf := { RegisterFile.reset with x0 := 1#64, x3 := 4#64, sw := 0xFFFFFFFF#32, pc := 5#32, sb := 5#32 } }).map
      (fun t => (t.rf, t.stk)) =
    some (RegisterFile.reset, { ptr := 6#32, mem := [(7, 0x99#8)] }) := by decide

/-! The stack (2.5): unlisted bytes are 0. -/

theorem test_push8 : seeStack (after 0x60000000 (stack 7#32 [] 0xAB#64)) =
    some (6#32, [(7, 0xAB#8)], 0#64, 0#3) := by decide

theorem test_push16 : seeStack (after 0x61000000 (stack 7#32 [] 0xABCD#64)) =
    some (5#32, [(6, 0xCD#8), (7, 0xAB#8)], 0#64, 0#3) := by decide

theorem test_push32 : seeStack (after 0x62000000 (stack 7#32 [] 0x11223344#64)) =
    some (3#32, [(4, 0x44#8), (5, 0x33#8), (6, 0x22#8), (7, 0x11#8)], 0#64, 0#3) := by decide

theorem test_push64 : seeStack (after 0x63000000 (stack 7#32 [] 0x0102030405060708#64)) =
    some (0xFFFFFFFF#32, [(0, 8#8), (1, 7#8), (2, 6#8), (3, 5#8), (4, 4#8), (5, 3#8), (6, 2#8), (7, 1#8)],
      0#64, 0#3) := by decide

theorem test_push64_overflows : seeStack (after 0x63000000 (stack 3#32 [(4, 0x44#8)] 0x55#64)) =
    some (3#32, [(4, 0x44#8)], 0#64, 3#3) := by decide

theorem test_push8_overflows : seeStack (after 0x60000000 (stack 0xFFFFFFFF#32 [(0, 8#8)] 0xEE#64)) =
    some (0xFFFFFFFF#32, [(0, 8#8)], 0#64, 3#3) := by decide

theorem test_pop8 : seeStack (after 0x64000000 (stack 5#32 [(6, 0xCD#8), (7, 0xAB#8)] 0#64)) =
    some (6#32, [(6, 0xCD#8), (7, 0xAB#8)], 0xCD#64, 0#3) := by decide

theorem test_pop16 : seeStack (after 0x65000000 (stack 5#32 [(6, 0x22#8), (7, 0x11#8)] 0#64)) =
    some (7#32, [(6, 0x22#8), (7, 0x11#8)], 0x1122#64, 0#3) := by decide

theorem test_pop16_underflows : seeStack (after 0x65000000 (stack 7#32 [] 0#64)) =
    some (7#32, [], 0#64, 4#3) := by decide

theorem test_pop32 :
    seeStack (after 0x66000000 (stack 3#32 [(4, 0xDD#8), (5, 0xCC#8), (6, 0xBB#8), (7, 0xAA#8)] 0#64)) =
    some (7#32, [(4, 0xDD#8), (5, 0xCC#8), (6, 0xBB#8), (7, 0xAA#8)], 0xAABBCCDD#64, 0#3) := by decide

theorem test_pop64 : seeStack (after 0x67000000 (stack 0xFFFFFFFF#32 [(0, 8#8), (7, 1#8)] 0#64)) =
    some (7#32, [(0, 8#8), (7, 1#8)], 0x0100000000000008#64, 0#3) := by decide

/-- 2.3: RA = RB under the two draws. -/
theorem test_two_results_in_one_register :
    seeA (after 0x19000000 (regs 0x100000000#64 0#64 0x000C0000#32 0#64)) = some (0#64, 0x000C0000#32, 0#3) ∧
    seeA (after 0x19000000 { regs 0x100000000#64 0#64 0x000C0000#32 0#64 with draw := .bLast }) =
      some (1#64, 0x000C0000#32, 0#3) := by decide

/-- 2.1: an illegal word stops the run and changes nothing. -/
theorem test_illegal_word : seeQ (after 0xFF000000 (regs 0#64 0#64 5#32 0#64)) = some (0#64, 5#32, 5#3) := by decide

/-! ## Witnesses: the hypotheses of each statement can be met -/

/-- A state that keeps the invariant: four bytes on the stack. -/
def held : State := stack 3#32 [(4, 0x44#8), (5, 0x33#8), (6, 0x22#8), (7, 0x11#8)] 0x55#64

theorem test_witness_invariant : BlockInv held := ⟨by decide, by decide, by decide, by decide, by decide⟩

theorem test_witness_CreationLeavesResetValues : Spr.pc ≠ .sb ∧ Spr.pc ≠ .sp := by decide

theorem test_witness_ResetCommandResetsTheRegisterFileAlone : Spr.cnt0 ≠ .sb ∧ Spr.cnt0 ≠ .sp := by decide

theorem test_witness_StepRunsTheDecodedCommand :
    ({ held with pending := [⟨0x64000000#32, 0#64, .aLast⟩] } : State).pending =
      ⟨0x64000000#32, 0#64, .aLast⟩ :: [] ∧
    decode (⟨0x64000000#32, 0#64, .aLast⟩ : PortInput).cmd = .ok .pop8 ∧
    held.pending = [] ∧ decode 0x10780000#32 = .ok (.add .r1 .r3 2#2) := by decide

theorem test_witness_NothingChangesWithoutACommand : held.pending = [] := by decide

theorem test_witness_IllegalWordRaisesIllegalCommand :
    ({ held with pending := [⟨0x52400000#32, 0#64, .aLast⟩] } : State).pending =
      ⟨0x52400000#32, 0#64, .aLast⟩ :: [] ∧
    ¬ Spec.LegalWord (⟨0x52400000#32, 0#64, .aLast⟩ : PortInput).cmd ∧ Spec.LegalWord 0x51000E00#32 := by
  unfold Spec.LegalWord Spec.opcodeRows
  decide

theorem test_witness_DecodeOfEncodeIsTheCommand :
    (Instr.sub .r3 .r2 2#2).wellFormed = true ∧ (Instr.rfwr 14#8).wellFormed = true := by decide

theorem test_witness_EncodeOfDecodeIsTheWord : decode 0x1BC30000#32 = .ok (.sext .r3 3#2) := by decide

theorem test_witness_RegisterFileReadDrivesTheRegister :
    14 < (15#8 : BitVec 8).toNat ∧ 14 < (255#8 : BitVec 8).toNat := by decide

theorem test_witness_tables :
    (Instr.setid, 0x3D, 24) ∈ Spec.setFlagRows ∧ (Instr.clrid, 0x3E, 24) ∈ Spec.clearFlagRows ∧
    (Instr.getid, 0x3F, 24) ∈ Spec.getFlagRows ∧ (Instr.selam, 0x40, 25, 3, 7) ∈ Spec.selectRows ∧
    (Instr.getusr, 0x4F, 0, 8) ∈ Spec.getFieldRows ∧ (Instr.setusr, 0x4E, 0) ∈ Spec.setByteRows ∧
    (Instr.push64, 0x63, 8) ∈ Spec.pushRows ∧ (Instr.pop64, 0x67, 8) ∈ Spec.popRows ∧
    (14, Spr.sp, 16) ∈ sprTable := by
  refine ⟨?_, ?_, ?_, ?_, ?_, ?_, ?_, ?_, ?_⟩ <;> decide

theorem test_witness_setter_and_accessor_tables :
    (Instr.setu8, 0x20, 8) ∈ Spec.setterRows ∧ (Instr.getu8, 0x28, 8) ∈ Spec.unsignedRows ∧
    (Instr.geti8, 0x2C, 8) ∈ Spec.signedRows := ⟨.head _, .head _, .head _⟩

/-- The largest legal value of every selector, and the next one. -/
theorem test_witness_SelectWritesItsFieldOrFails : ∀ e ∈ Spec.selectRows,
    (regs 0#64 0#64 0#32 (BitVec.ofNat 64 e.2.2.2.2)).d.toNat ≤ e.2.2.2.2 ∧
    e.2.2.2.2 < (regs 0#64 0#64 0#32 (BitVec.ofNat 64 (e.2.2.2.2 + 1))).d.toNat := by decide

theorem test_witness_StatusFieldsReadBackAsWritten :
    ((Instr.setv, 0x34, 30) ∈ Spec.setFlagRows ∧ (Instr.getv, 0x36, 30) ∈ Spec.getFlagRows ∧
      ∃ t, exec .setv held = .next t) ∧
    ((Instr.clrz, 0x38, 29) ∈ Spec.clearFlagRows ∧ (Instr.getz, 0x39, 29) ∈ Spec.getFlagRows ∧
      ∃ t, exec .clrz held = .next t) ∧
    ((Instr.selos, 0x48, 18, 2, 3) ∈ Spec.selectRows ∧ (Instr.getos, 0x49, 18, 2) ∈ Spec.getFieldRows ∧
      ∃ t, exec .selos (regs 0#64 0#64 0#32 3#64) = .next t) :=
  ⟨⟨by decide, by decide, _, rfl⟩, ⟨by decide, by decide, _, rfl⟩, ⟨by decide, by decide, _, rfl⟩⟩

theorem test_witness_FormsNoWordDecodesToRaiseIllegalCommand : 14 < (15#8 : BitVec 8).toNat := by decide

theorem test_witness_carry_select : (2#2 : BitVec 2) ≠ 3#2 := by decide

/-- Canonical operands at each width (41_alu.md R130, R131). -/
theorem test_witness_CompareIsTheOrderAtEveryCanonicalWidth :
    (let s := regs 0xFFFFFFFFFFFFFF80#64 0x7F#64 0#32 0#64
     ∀ n ∈ [8, 16, 32, 64], IsSext n (s.x .r0) (s.x .r0) ∧ IsSext n (s.x .r1) (s.x .r1)) := by
  unfold IsSext
  decide

/-- The operand all-ones with a carry-in, and a plain pair. -/
theorem test_witness_CarryAndOverflowAgreeAtTheCurrentWidth :
    (let s := regs 5#64 0xFFFFFFFFFFFFFFFF#64 0x80000000#32 0#64
     IsSext (widthNow s) (s.x .r0) (s.x .r0) ∧ IsSext (widthNow s) (s.x .r1) (s.x .r1) ∧
       Spec.carryIn 2#2 s = 1 ∧ (2#2 : BitVec 2) ≠ 3#2) ∧
    (let s := regs 0x7F#64 1#64 0#32 0#64
     IsSext (widthNow s) (s.x .r0) (s.x .r0) ∧ IsSext (widthNow s) (s.x .r1) (s.x .r1) ∧
       Spec.borrowIn 0#2 s = 0) := by
  unfold IsSext
  decide

theorem test_witness_MultiplyIsExact :
    (let s := regs 0x8000000000000000#64 0x8000000000000000#64 0x000C0000#32 0#64
     widthNow s = 64 ∧ s.params.mul64NegSplit = .wide ∧ Reg.r0 ≠ .r1) ∧
    (let s := regs 0xFFFFFFFF80000000#64 0x7FFFFFFF#64 0x00080000#32 0#64
     widthNow s ≤ 32 ∧ IsSext (widthNow s) (s.x .r0) (s.x .r0) ∧
       IsSext (widthNow s) (s.x .r1) (s.x .r1)) := by
  unfold IsSext
  decide

theorem test_witness_DivideGivesQuotientRemainderAndFlags :
    (regs 7#64 0#64 0#32 0#64).x .r1 = 0#64 ∧ (regs 7#64 1#64 0#32 0#64).x .r1 ≠ 0#64 := by decide

/-- The one quotient that does not fit, and another. -/
theorem test_witness_DivisionLaws :
    (let s := regs 0x8000000000000000#64 0xFFFFFFFFFFFFFFFF#64 0#32 0#64
     Reg.r0 ≠ .r1 ∧ s.x .r1 ≠ 0#64 ∧ (s.x .r0).toInt = -2 ^ 63 ∧ (s.x .r1).toInt = -1) ∧
    (regs 7#64 0xFFFFFFFFFFFFFFFE#64 0#32 0#64).x .r1 ≠ 0#64 := by decide

theorem test_witness_RegisterFileWriteWritesTheRegisterAlone : Spr.sb ≠ .sp := by decide

/-- For every width the last pointer that overflows and the first that does not. -/
theorem test_witness_PushStoresBytesOrOverflows : ∀ e ∈ Spec.pushRows,
    (stack (BitVec.ofInt 32 (e.2.2 - 2)) [] 0#64).stkPtr < e.2.2 - 1 ∧
    (let s := stack (BitVec.ofInt 32 (e.2.2 - 1)) [] 0#64
     Memory.wf s.stk.mem = true ∧ e.2.2 - 1 ≤ s.stkPtr ∧ s.stkPtr < s.params.stkLen) := by decide

/-- For every width the first pointer that underflows and the last that does not. -/
theorem test_witness_PopReadsBytesOrUnderflows : ∀ e ∈ Spec.popRows,
    (let s := stack (BitVec.ofInt 32 (8 - e.2.2)) [] 0#64
     s.params.stkTop.toInt < s.stkPtr + e.2.2) ∧
    (let s := stack (BitVec.ofInt 32 (7 - e.2.2)) [] 0#64
     s.stkPtr + e.2.2 ≤ s.params.stkTop.toInt ∧ -1 ≤ s.stkPtr ∧ s.stkPtr + e.2.2 < s.params.stkLen) := by
  decide

theorem test_witness_PopAfterPushReturnsTheLowBytes :
    (Instr.push32, 0x62, 4) ∈ Spec.pushRows ∧ (Instr.pop16, 0x65, 2) ∈ Spec.popRows ∧ BlockInv held ∧
    ∃ t, exec .push32 held = .next t ∧ t.err = .noError :=
  ⟨by decide, by decide, test_witness_invariant, _, rfl, rfl⟩

theorem test_witness_StackUnitRefinesAByteStack :
    BlockInv held ∧ held.stackBytes = [0x44#8, 0x33#8, 0x22#8, 0x11#8] := ⟨test_witness_invariant, by decide⟩

theorem test_witness_StackCommandsIgnoreTheRegisterFile :
    (∃ t, exec .push8 held = .next t) ∧ ∃ t, exec .pop64 held = .next t := ⟨⟨_, rfl⟩, ⟨_, rfl⟩⟩

theorem test_witness_CommandsReportOnlyTheirOwnError :
    (Instr.pop64).wellFormed = true ∧ ∃ t, blockAfter (exec .pop64 held) = some t ∧ t.err ≠ .noError :=
  ⟨rfl, _, rfl, by decide⟩

theorem test_witness_EveryLegalCommandAnswers : BlockInv held ∧ Instr.selam.wellFormed = true :=
  ⟨test_witness_invariant, rfl⟩

theorem test_witness_GeneralRegistersHaveOnlyTheirWriters :
    ∃ t, blockAfter (exec (.setu8 .r0) held) = some t ∧ t.x .r0 ≠ held.x .r0 := ⟨_, rfl, by decide⟩

theorem test_witness_StatusBitsHaveOnlyTheirWriters :
    ∃ t, blockAfter (exec .setc held) = some t ∧ swBit 31 t ≠ swBit 31 held := ⟨_, rfl, by decide⟩

theorem test_witness_SpecialRegistersHaveOnlyTheirWriters :
    ∃ t, blockAfter (exec (.rfwr 14#8) held) = some t ∧ t.spr .sp ≠ held.spr .sp := ⟨_, rfl, by decide⟩

theorem test_witness_StackHasOnlyItsWriters :
    ∃ t, blockAfter (exec .push8 held) = some t ∧ t.stk.mem ≠ held.stk.mem ∧ t.stk.ptr ≠ held.stk.ptr :=
  ⟨_, rfl, by decide, by decide⟩

theorem test_witness_UntakenInputBitsAreIgnored :
    (Instr.push8).wellFormed = true ∧
    held.d.toNat % 2 ^ Spec.inputBits .push8 = (0xFF55#64).toNat % 2 ^ Spec.inputBits .push8 ∧
    ∃ t, blockAfter (exec .push8 held) = some t := ⟨rfl, by decide, _, rfl⟩

theorem test_witness_StorageFieldsInfluenceNothing :
    (∀ k ∈ [31, 19, 18], (0x7FF3FFFF#32).getLsbD k = swBit k held) ∧
    ∃ t, blockAfter (exec (.add .r0 .r1 2#2) held) = some t := ⟨by decide, _, rfl⟩

/-- Two states that differ in a byte at the pointer. -/
theorem test_witness_BytesBelowThePointerNeverShow :
    (let s' := stack 3#32 [(3, 0x99#8), (4, 0x44#8), (5, 0x33#8), (6, 0x22#8), (7, 0x11#8)] 0x55#64
     BlockInv held ∧ BlockInv s' ∧ Spec.AlikeAbovePointer held s') := by
  refine ⟨test_witness_invariant, ⟨by decide, by decide, by decide, by decide, by decide⟩, rfl, rfl, rfl, rfl, rfl,
    rfl, rfl, rfl, fun k h => ?_⟩
  have h3 : 3 ≠ k := by
    rintro rfl
    exact absurd h (by decide)
  show memRead ((3, 0x99#8) :: held.stk.mem) k = memRead held.stk.mem k
  rw [memRead, if_neg h3]

theorem test_witness_InvariantHoldsAtEveryCreation :
    ({ Params.default with stkLen := 1, stkTop := 0#32 } : Params).Legal ∧ [0x22#8].length ≤ 1 := by decide

theorem test_witness_EveryStepKeepsTheInvariant : BlockInv held := test_witness_invariant

theorem test_witness_NoRunLeavesTheBuffer : BlockInv held := test_witness_invariant

end Sys2Proof.Tests
end

section
/-! What a command may write (10_state.md R23, R40) and what the reset values are (R46, R48). `Keeps` is the frame of
one state update, `Frames` that of an answer; each shared operation has one lemma, and `exec_frames` puts them
together command by command. -/

namespace Sys2Proof.Machine

/-! ## The RegisterFile at its reset values (10_state.md R48) -/

theorem State.x_of_rf_reset {s : State} (h : s.rf = RegisterFile.reset) (r : Reg) : s.x r = 0#64 := by
  cases r <;> simp [State.x, h, RegisterFile.reset]

theorem State.sw_of_rf_reset {s : State} (h : s.rf = RegisterFile.reset) : s.sw = 0#32 := by
  rw [State.sw, h]; rfl

/-- Of the special-purpose registers only SB and SP come up other than 0. -/
theorem State.spr_of_rf_reset {s : State} (h : s.rf = RegisterFile.reset) {n : Spr} (hsb : n ≠ .sb)
    (hsp : n ≠ .sp) : s.spr n = 0#64 := by
  cases n with
  | sb => exact absurd rfl hsb
  | sp => exact absurd rfl hsp
  | _ => simp [State.spr, h, RegisterFile.reset]

/-- The state the command RESET leaves (44_register_file.md R167). -/
theorem exec_reset (s : State) :
    exec .reset s = .next ((s.setRf RegisterFile.reset).drive 0#64 .noError) := rfl

/-- Settles O1: the created RegisterFile is the reset one, and RESET puts that same one in place. -/
theorem creationLeavesResetValues : Obligations.CreationLeavesResetValues := by
  intro p stkInit
  have hrf : (State.create p stkInit).rf = RegisterFile.reset := rfl
  refine ⟨State.x_of_rf_reset hrf, State.sw_of_rf_reset hrf, fun _ hsb hsp => State.spr_of_rf_reset hrf hsb hsp,
    rfl, rfl, rfl, rfl, fun _ => rfl, by decide, fun s => ⟨_, exec_reset s, ?_, ?_⟩⟩
  · rw [hrf, State.drive_rf, State.setRf_rf]
  · rw [State.drive_stk, State.setRf_stk]

/-! ## Frames of the state's updates -/

/-- From `s` to `t` no general register outside `written` and no bit of SW outside `bits` changes. -/
structure Keeps (written : List Reg) (bits : List Nat) (s t : State) : Prop where
  regs : SameRegsExcept written s t
  sw : SameSwExcept bits s t

/-- Every bit of the field is one of `bits`. -/
abbrev SwField.Within (f : SwField) (bits : List Nat) : Prop :=
  ∀ i < 32, f.lo ≤ i ∧ i < f.lo + f.width → i ∈ bits

section
variable {written : List Reg} {bits : List Nat} {s t : State}

theorem Keeps.refl (written : List Reg) (bits : List Nat) (s : State) : Keeps written bits s s :=
  ⟨fun _ _ => rfl, fun _ _ _ => rfl⟩

/-- An update that leaves the general registers and SW alone. -/
theorem Keeps.of_same {u : State} (h : Keeps written bits s t) (hx : ∀ r, u.x r = t.x r) (hsw : u.sw = t.sw) :
    Keeps written bits s u :=
  ⟨fun r hr => (hx r).trans (h.regs r hr), fun i hi hn => hsw ▸ h.sw i hi hn⟩

theorem Keeps.drive (h : Keeps written bits s t) (q : BitVec 64) (e : ErrorCode) :
    Keeps written bits s (t.drive q e) :=
  h.of_same (by simp) (by simp)

theorem Keeps.setSpr (h : Keeps written bits s t) (n : Spr) (v : BitVec 64) : Keeps written bits s (t.setSpr n v) :=
  h.of_same (by simp) (by simp)

theorem Keeps.setStk (h : Keeps written bits s t) (k : StackUnit) : Keeps written bits s (t.setStk k) :=
  h.of_same (by simp) (by simp)

theorem Keeps.setX (h : Keeps written bits s t) {ra : Reg} (hra : ra ∈ written) (v : BitVec 64) :
    Keeps written bits s (t.setX ra v) where
  regs r hr := by
    have hne : r ≠ ra := fun he => hr (he ▸ hra)
    rw [State.setX_x_ne t v hne, h.regs r hr]
  sw i hi hn := by rw [State.setX_sw, h.sw i hi hn]

theorem Keeps.setTwo (h : Keeps written bits s t) {ra rb : Reg} (hra : ra ∈ written) (hrb : rb ∈ written)
    (va vb : BitVec 64) : Keeps written bits s (t.setTwo ra rb va vb) := by
  unfold State.setTwo
  split
  · exact (h.setX hrb vb).setX hra va
  · exact (h.setX hra va).setX hrb vb

theorem Keeps.putField (h : Keeps written bits s t) {f : SwField} (hf : f.Within bits) (v : BitVec 64) :
    Keeps written bits s (t.putField f v) where
  regs r hr := by rw [State.putField_x, h.regs r hr]
  sw i hi hn := by
    have hout : ¬(f.lo ≤ i ∧ i < f.lo + f.width) := fun hin => hn (hf i hi hin)
    rw [State.putField_swBit t f v i hi, if_neg hout, h.sw i hi hn]

theorem Keeps.putFlag (h : Keeps written bits s t) {f : SwField} (hf : f.Within bits) (b : Bool) :
    Keeps written bits s (t.putFlag f b) :=
  h.putField hf _

theorem Keeps.putZN (h : Keeps written bits s t) (hz : SwField.z.Within bits) (hn : SwField.n.Within bits)
    (r : BitVec 64) : Keeps written bits s (t.putZN r) :=
  (h.putFlag hz _).putFlag hn _

end

/-! ## Frames of the answers -/

/-- Whatever state the answer leaves the block in, on an error too, keeps all but `written` and `bits`. -/
def Frames (written : List Reg) (bits : List Nat) (s : State) (o : Result) : Prop :=
  ∀ t, blockAfter o = some t → Keeps written bits s t

section
variable {written : List Reg} {bits : List Nat} {s : State}

theorem Frames.finish {u : State} (h : Keeps written bits s u) (q : BitVec 64) :
    Frames written bits s (finish u q) := by
  rintro t ⟨⟩
  exact h.drive q .noError

theorem Frames.raise (e : ErrorCode) : Frames written bits s (raise e s) := by
  intro t ht
  rw [blockAfter_raise, Option.some.injEq] at ht
  exact ht ▸ (Keeps.refl written bits s).drive 0#64 e

/-- A command that only drives `q`. -/
theorem Frames.output (q : BitVec 64) : Frames written bits s (Machine.finish s q) :=
  .finish (.refl written bits s) q

theorem Frames.finishZN {ra : Reg} (hra : ra ∈ written) (hz : SwField.z.Within bits) (hn : SwField.n.Within bits)
    (r : BitVec 64) : Frames written bits s (finishZN ra r s) :=
  .finish (((Keeps.refl written bits s).setX hra r).putZN hz hn r) 0#64

/-- A setter of a general register. -/
theorem Frames.writeRegister (ra : Reg) (v : BitVec 64) : Frames [ra] [] s (Machine.finish (s.setX ra v) 0#64) :=
  .finish ((Keeps.refl [ra] [] s).setX (List.mem_singleton_self ra) v) 0#64

theorem Frames.writeFlag {f : SwField} (hf : f.Within bits) (b : Bool) :
    Frames written bits s (writeFlag f b s) :=
  .finish ((Keeps.refl written bits s).putFlag hf b) 0#64

theorem Frames.writeByteField {f : SwField} (hf : f.Within bits) : Frames written bits s (writeByteField f s) :=
  .finish ((Keeps.refl written bits s).putField hf s.d) 0#64

theorem Frames.selectField {f : SwField} (hf : f.Within bits) : Frames written bits s (selectField f s) := by
  unfold Machine.selectField
  split
  · exact .raise .invalidFieldValue
  · exact .writeByteField hf

theorem Frames.pushBytes (n : Nat) : Frames written bits s (pushBytes n s) := by
  obtain ⟨-, h⟩ | ⟨-, -, h⟩ | ⟨-, -, h⟩ := pushBytes_cases n s <;> rw [h]
  · exact .raise .stackOverflow
  · exact .finish ((Keeps.refl written bits s).setStk _) 0#64
  · rintro t ⟨⟩

theorem Frames.popBytes (n : Nat) : Frames written bits s (popBytes n s) := by
  obtain ⟨-, h⟩ | ⟨-, -, -, h⟩ | ⟨-, -, h⟩ := popBytes_cases n s <;> rw [h]
  · exact .raise .stackUnderflow
  · exact .finish ((Keeps.refl written bits s).setStk _) _
  · rintro t ⟨⟩

end

/-! ## Frames of the commands -/

section
variable (s : State)

theorem Keeps.aluResult (ra : Reg) (r : BitVec 64) (c v : Bool) :
    Keeps [ra] [31, 30, 29, 28] s ((s.setX ra r).putCVZN c v r) :=
  ((((Keeps.refl _ _ s).setX (List.mem_singleton_self ra) r).putFlag (by decide) c).putFlag (by decide) v).putZN
    (by decide) (by decide) r

theorem execAdd_frames (ra rb : Reg) (ci : BitVec 2) : Frames [ra] [31, 30, 29, 28] s (execAdd ra rb ci s) := by
  unfold execAdd
  split
  · exact .raise .illegalCommand
  · exact .finish (Keeps.aluResult s ra _ _ _) 0#64

theorem execSub_frames (ra rb : Reg) (ci : BitVec 2) : Frames [ra] [31, 30, 29, 28] s (execSub ra rb ci s) := by
  unfold execSub
  split
  · exact .raise .illegalCommand
  · exact .finish (Keeps.aluResult s ra _ _ _) 0#64

theorem finishZN_frames (ra : Reg) (r : BitVec 64) : Frames [ra] [29, 28] s (finishZN ra r s) :=
  .finishZN (List.mem_singleton_self ra) (by decide) (by decide) r

theorem execCmp_frames (ra rb : Reg) : Frames [] [31, 30, 29] s (execCmp ra rb s) :=
  .finish ((((Keeps.refl _ _ s).putFlag (by decide) _).putFlag (by decide) _).putFlag (by decide) _) 0#64

/-- RB is written by the 64-bit product alone (41_alu.md R127). -/
theorem execMuls_frames (ra rb : Reg) :
    Frames (if widthNow s = 64 then [ra, rb] else [ra]) [29, 28] s (execMuls ra rb s) := by
  dsimp only [execMuls]
  rw [State.operandWidth_eq]
  by_cases h64 : widthNow s = 64
  · rw [if_pos h64, if_neg (show ¬widthNow s ≤ 32 by omega)]
    exact .finish ((((Keeps.refl _ _ s).setTwo (by simp) (by simp) _ _).putFlag (by decide) _).putFlag
      (by decide) _) 0#64
  · rw [if_neg h64, if_pos (show widthNow s ≤ 32 by have := widthNow_cases s; omega)]
    exact finishZN_frames s ra _

theorem execDivs_frames (ra rb : Reg) : Frames [ra, rb] [30, 29, 28] s (execDivs ra rb s) := by
  unfold execDivs
  split
  · exact .raise .divisionByZero
  · exact .finish (((((Keeps.refl _ _ s).setTwo (by simp) (by simp) _ _).putFlag (by decide) _).putFlag
      (by decide) _).putFlag (by decide) _) 0#64

theorem execRfrd_frames (f : BitVec 8) : Frames [] [] s (execRfrd f s) := by
  unfold execRfrd
  split
  · exact .raise .illegalCommand
  · exact .output _

theorem execRfwr_frames (f : BitVec 8) : Frames [] [] s (execRfwr f s) := by
  unfold execRfwr
  split
  · exact .raise .illegalCommand
  · exact .finish ((Keeps.refl _ _ s).setSpr _ _) 0#64

theorem execReset_frames : Frames [.r0, .r1, .r2, .r3] (List.range 32) s (execReset s) := by
  refine .finish ⟨fun r hr => ?_, fun i hi hn => absurd (List.mem_range.mpr hi) hn⟩ 0#64
  cases r <;> simp at hr

end

/-- No command changes a general register or a bit of SW beyond those the spec's tables give it. -/
theorem exec_frames (i : Instr) (s : State) :
    Frames (Spec.writtenRegs i s) (Spec.writtenBits i) s (exec i s) := by
  match i with
  | .add ra rb ci => exact execAdd_frames s ra rb ci
  | .sub ra rb ci => exact execSub_frames s ra rb ci
  | .and ra _ | .or ra _ | .xor ra _ | .shl ra | .shr ra | .sar ra => exact finishZN_frames s ra _
  | .cmp ra rb => exact execCmp_frames s ra rb
  | .muls ra rb => exact execMuls_frames s ra rb
  | .divs ra rb => exact execDivs_frames s ra rb
  | .sext ra _ | .setu8 ra | .setu16 ra | .setu32 ra | .setu64 ra | .seti8 ra | .seti16 ra | .seti32 ra
  | .seti64 ra => exact .writeRegister ra _
  | .getu8 _ | .getu16 _ | .getu32 _ | .getu64 _ | .geti8 _ | .geti16 _ | .geti32 _ | .geti64 _ | .swrd
  | .getc | .getv | .getz | .getn | .getid | .getam | .getrs | .getps | .getcs | .getos | .getmm | .getsys
  | .getusr => exact .output _
  | .setc | .setv | .setz | .setn | .setid => exact .writeFlag (by decide) true
  | .clrc | .clrv | .clrz | .clrn | .clrid => exact .writeFlag (by decide) false
  | .selam | .selrs | .selps | .selcs | .selos | .selmm => exact .selectField (by decide)
  | .setsys | .setusr => exact .writeByteField (by decide)
  | .rfrd f => exact execRfrd_frames s f
  | .rfwr f => exact execRfwr_frames s f
  | .reset => exact execReset_frames s
  | .push8 | .push16 | .push32 | .push64 => exact .pushBytes _
  | .pop8 | .pop16 | .pop32 | .pop64 => exact .popBytes _

/-- Settles O45: a register outside the command's list keeps its value, by `exec_frames`. -/
theorem generalRegistersHaveOnlyTheirWriters : Obligations.GeneralRegistersHaveOnlyTheirWriters := by
  intro i s t r ht hchanged
  by_contra hr
  exact hchanged ((exec_frames i s t ht).regs r hr)

/-- Settles O46: a bit outside the command's fields keeps its value, by `exec_frames`. -/
theorem statusBitsHaveOnlyTheirWriters : Obligations.StatusBitsHaveOnlyTheirWriters := by
  intro i s t k hk ht hchanged
  by_contra hout
  exact hchanged ((exec_frames i s t ht).sw k hk hout)

end Sys2Proof.Machine
end

section
/-! Status word commands (40_status_word.md). The spec's tables name a field of SW by its lowest bit and width, the model
by its name; each row is first tied to the model's field and shared operation, and the operation's one rule then
settles the whole table. -/

namespace Sys2Proof.Machine

/-! ## Fields of the status word -/

section
variable (s : State) (f : SwField) (v : BitVec 64)

theorem SwField.within_range : f.Within ((List.range f.width).map (f.lo + ·)) := by
  intro i _ hin
  exact List.mem_map.mpr ⟨i - f.lo, List.mem_range.mpr (by omega), by omega⟩

theorem SwField.within_singleton {f : SwField} (hw : f.width = 1) : f.Within [f.lo] := by
  intro i _ hin
  exact List.mem_singleton.mpr (by omega)

theorem SwField.lo_lt : f.lo < 32 := by cases f <;> decide

theorem SwField.top_le : f.lo + f.width ≤ 32 := by cases f <;> decide

/-- The model's field read is the spec's view of the field. -/
theorem swGet_eq_swBits : swGet f s.sw = BitVec.ofNat 64 (swBits f.lo f.width s) := by
  rw [swBits, ← swGet_toNat, BitVec.ofNat_toNat, BitVec.setWidth_eq]

theorem swGet_eq_swBit {f : SwField} (hw : f.width = 1) :
    swGet f s.sw = if swBit f.lo s then 1#64 else 0#64 := by
  refine BitVec.eq_of_getLsbD_eq fun i _ => ?_
  rw [swGet_getLsbD, hw, swBit]
  by_cases hi : i = 0
  · subst hi
    cases s.sw.getLsbD f.lo <;> rfl
  · cases s.sw.getLsbD f.lo <;> simp [hi]

/-- A field holds what was written to it, cut to its width. -/
theorem State.putField_swBits : swBits f.lo f.width (s.putField f v) = v.toNat % 2 ^ f.width := by
  have htop := f.top_le
  refine Nat.eq_of_testBit_eq fun i => ?_
  rw [swBits, Nat.testBit_mod_two_pow, Nat.testBit_div_two_pow, Nat.testBit_mod_two_pow]
  by_cases hi : i < f.width
  · have hbit := s.putField_swBit f v (f.lo + i) (by omega)
    rw [if_pos (by omega), Nat.add_sub_cancel_left] at hbit
    simpa [hi, BitVec.getLsbD, Nat.add_comm] using hbit
  · simp [hi]

/-! ## Frames of the shared operations -/

theorem OnlyWrites.drive (q : BitVec 64) (e : ErrorCode) : OnlyWrites [] [] s (s.drive q e) := by
  have hkeep := (Keeps.refl [] [] s).drive q e
  exact ⟨hkeep.regs, hkeep.sw, s.drive_spr q e, ⟨rfl, s.drive_byteAt q e⟩, rfl, rfl, rfl, rfl⟩

theorem OnlyWrites.putField {f : SwField} {bits : List Nat} (hf : f.Within bits) (q : BitVec 64) (e : ErrorCode) :
    OnlyWrites [] bits s ((s.putField f v).drive q e) := by
  have hkeep := ((Keeps.refl [] bits s).putField hf v).drive q e
  exact ⟨hkeep.regs, hkeep.sw, s.putField_spr f v, ⟨rfl, s.putField_byteAt f v⟩, rfl, rfl, rfl, rfl⟩

/-! ## The rules of the shared operations -/

/-- R79: the flag takes the value and nothing else changes. -/
theorem writeFlag_spec {f : SwField} (hw : f.width = 1) (b : Bool) :
    ∃ t, Completes (writeFlag f b s) 0#64 t ∧ swBit f.lo t = b ∧ OnlyWrites [] [f.lo] s t := by
  refine ⟨_, .of_finish (s.putFlag f b) 0#64, ?_, .putField s _ (SwField.within_singleton hw) _ _⟩
  rw [swBit, State.drive_sw, s.putFlag_swBit f b f.lo f.lo_lt hw, if_pos rfl]

/-- R82, R97: the field is driven on `q` and nothing changes. -/
theorem readField_spec :
    ∃ t, Completes (readField f s) (swGet f s.sw) t ∧ OnlyWrites [] [] s t :=
  ⟨_, .of_finish s _, .drive s _ _⟩

/-- R108: the field takes the low bits of the data input and nothing else changes. -/
theorem writeByteField_spec :
    ∃ t, Completes (writeByteField f s) 0#64 t ∧ swBits f.lo f.width t = s.d.toNat % 2 ^ f.width ∧
      OnlyWrites [] ((List.range f.width).map (f.lo + ·)) s t :=
  ⟨_, .of_finish _ 0#64, s.putField_swBits f s.d, .putField s _ f.within_range _ _⟩

/-- R95, in range: the whole data input stands in the field. -/
theorem selectField_spec_in_range (h : s.d.toNat ≤ 2 ^ f.width - 1) :
    ∃ t, Completes (selectField f s) 0#64 t ∧ swBits f.lo f.width t = s.d.toNat ∧
      OnlyWrites [] ((List.range f.width).map (f.lo + ·)) s t := by
  have hlt : s.d.toNat < 2 ^ f.width := by
    have := Nat.two_pow_pos f.width
    omega
  have hspec := writeByteField_spec s f
  rw [Nat.mod_eq_of_lt hlt] at hspec
  rw [selectField_in_range f s h]
  exact hspec

/-- R95, out of range: the fault leaves the block as it was but for the outputs. -/
theorem selectField_spec_out_of_range (h : 2 ^ f.width - 1 < s.d.toNat) :
    ∃ t, selectField f s = .fault (.invalidFieldValue t) ∧ OnlyReports .invalidFieldValue s t :=
  ⟨_, selectField_out_of_range f s h, rfl⟩

end

/-! ## The spec's rows -/

/-- The command's word is OP alone and its meaning is `m`. -/
structure Means (i : Instr) (op : Nat) (m : State → Result) : Prop where
  word : decode (commandWord op 0 0 0 0 0) = .ok i
  meaning : ∀ s, exec i s = m s

theorem setFlagRows_means : ∀ e ∈ Spec.setFlagRows,
    ∃ f : SwField, f.width = 1 ∧ e.2.2 = f.lo ∧ Means e.1 e.2.1 (writeFlag f true) := by
  simp only [Spec.setFlagRows, List.forall_mem_cons]
  exact ⟨⟨.c, rfl, rfl, rfl, fun _ => rfl⟩, ⟨.v, rfl, rfl, rfl, fun _ => rfl⟩, ⟨.z, rfl, rfl, rfl, fun _ => rfl⟩,
    ⟨.n, rfl, rfl, rfl, fun _ => rfl⟩, ⟨.id, rfl, rfl, rfl, fun _ => rfl⟩, nofun⟩

theorem clearFlagRows_means : ∀ e ∈ Spec.clearFlagRows,
    ∃ f : SwField, f.width = 1 ∧ e.2.2 = f.lo ∧ Means e.1 e.2.1 (writeFlag f false) := by
  simp only [Spec.clearFlagRows, List.forall_mem_cons]
  exact ⟨⟨.c, rfl, rfl, rfl, fun _ => rfl⟩, ⟨.v, rfl, rfl, rfl, fun _ => rfl⟩, ⟨.z, rfl, rfl, rfl, fun _ => rfl⟩,
    ⟨.n, rfl, rfl, rfl, fun _ => rfl⟩, ⟨.id, rfl, rfl, rfl, fun _ => rfl⟩, nofun⟩

theorem getFlagRows_means : ∀ e ∈ Spec.getFlagRows,
    ∃ f : SwField, f.width = 1 ∧ e.2.2 = f.lo ∧ Means e.1 e.2.1 (readField f) := by
  simp only [Spec.getFlagRows, List.forall_mem_cons]
  exact ⟨⟨.c, rfl, rfl, rfl, fun _ => rfl⟩, ⟨.v, rfl, rfl, rfl, fun _ => rfl⟩, ⟨.z, rfl, rfl, rfl, fun _ => rfl⟩,
    ⟨.n, rfl, rfl, rfl, fun _ => rfl⟩, ⟨.id, rfl, rfl, rfl, fun _ => rfl⟩, nofun⟩

/-- A selector's maximum is the largest value of its field (60_exceptions.md R169). -/
theorem selectRows_means : ∀ e ∈ Spec.selectRows,
    ∃ f : SwField, e.2.2.1 = f.lo ∧ e.2.2.2.1 = f.width ∧ e.2.2.2.2 = 2 ^ f.width - 1 ∧
      Means e.1 e.2.1 (selectField f) := by
  simp only [Spec.selectRows, List.forall_mem_cons]
  exact ⟨⟨.am, rfl, rfl, rfl, rfl, fun _ => rfl⟩, ⟨.rs, rfl, rfl, rfl, rfl, fun _ => rfl⟩,
    ⟨.ps, rfl, rfl, rfl, rfl, fun _ => rfl⟩, ⟨.cs, rfl, rfl, rfl, rfl, fun _ => rfl⟩,
    ⟨.os, rfl, rfl, rfl, rfl, fun _ => rfl⟩, ⟨.mm, rfl, rfl, rfl, rfl, fun _ => rfl⟩, nofun⟩

theorem getFieldRows_means : ∀ e ∈ Spec.getFieldRows,
    ∃ f : SwField, e.2.2.1 = f.lo ∧ e.2.2.2 = f.width ∧ Means e.1 e.2.1 (readField f) := by
  simp only [Spec.getFieldRows, List.forall_mem_cons]
  exact ⟨⟨.am, rfl, rfl, rfl, fun _ => rfl⟩, ⟨.rs, rfl, rfl, rfl, fun _ => rfl⟩, ⟨.ps, rfl, rfl, rfl, fun _ => rfl⟩,
    ⟨.cs, rfl, rfl, rfl, fun _ => rfl⟩, ⟨.os, rfl, rfl, rfl, fun _ => rfl⟩, ⟨.mm, rfl, rfl, rfl, fun _ => rfl⟩,
    ⟨.sys, rfl, rfl, rfl, fun _ => rfl⟩, ⟨.usr, rfl, rfl, rfl, fun _ => rfl⟩, nofun⟩

theorem setByteRows_means : ∀ e ∈ Spec.setByteRows,
    ∃ f : SwField, e.2.2 = f.lo ∧ f.width = 8 ∧ Means e.1 e.2.1 (writeByteField f) := by
  simp only [Spec.setByteRows, List.forall_mem_cons]
  exact ⟨⟨.sys, rfl, rfl, rfl, fun _ => rfl⟩, ⟨.usr, rfl, rfl, rfl, fun _ => rfl⟩, nofun⟩

/-! ## The statements -/

/-- Settles O10: every row writes 1 to its flag, by `writeFlag_spec`. -/
theorem setFlagSetsItsBitAlone : Obligations.SetFlagSetsItsBitAlone := by
  intro e he
  obtain ⟨f, hw, hlo, hword, hexec⟩ := setFlagRows_means e he
  refine ⟨hword, fun s => ?_⟩
  rw [hexec, hlo]
  exact writeFlag_spec s hw true

/-- Settles O11: every row writes 0 to its flag, by `writeFlag_spec`. -/
theorem clearFlagClearsItsBitAlone : Obligations.ClearFlagClearsItsBitAlone := by
  intro e he
  obtain ⟨f, hw, hlo, hword, hexec⟩ := clearFlagRows_means e he
  refine ⟨hword, fun s => ?_⟩
  rw [hexec, hlo]
  exact writeFlag_spec s hw false

/-- Settles O12: a field of one bit, read, is that bit, by `swGet_eq_swBit`. -/
theorem getFlagDrivesItsBit : Obligations.GetFlagDrivesItsBit := by
  intro e he
  obtain ⟨f, hw, hlo, hword, hexec⟩ := getFlagRows_means e he
  refine ⟨hword, fun s => ?_⟩
  rw [hexec, hlo, ← swGet_eq_swBit s hw]
  exact readField_spec s f

/-- Settles O13: the range check splits the two cases of the selector contract. -/
theorem selectWritesItsFieldOrFails : Obligations.SelectWritesItsFieldOrFails := by
  intro e he
  obtain ⟨f, hlo, hwidth, hmax, hword, hexec⟩ := selectRows_means e he
  refine ⟨hword, fun s => ?_⟩
  rw [hexec, hlo, hwidth, hmax]
  exact ⟨selectField_spec_in_range s f, selectField_spec_out_of_range s f⟩

/-- Settles O14: the field read is the spec's view of the field, by `swGet_eq_swBits`. -/
theorem getFieldDrivesItsField : Obligations.GetFieldDrivesItsField := by
  intro e he
  obtain ⟨f, hlo, hwidth, hword, hexec⟩ := getFieldRows_means e he
  refine ⟨hword, fun s => ?_⟩
  rw [hexec, hlo, hwidth, ← swGet_eq_swBits s f]
  exact readField_spec s f

/-- Settles O15: a byte setter is a field write of width 8, by `writeByteField_spec`. -/
theorem setByteWritesItsByteAlone : Obligations.SetByteWritesItsByteAlone := by
  intro e he
  obtain ⟨f, hlo, hwidth, hword, hexec⟩ := setByteRows_means e he
  refine ⟨hword, fun s => ?_⟩
  have hspec := writeByteField_spec s f
  rw [hwidth] at hspec
  rw [hexec, hlo]
  exact hspec

end Sys2Proof.Machine
end

section
/-! Command words (30_encoding.md R66, R74): a word packed from a row's fields decodes to the row's command. -/

namespace Sys2Proof.Machine

theorem toNat_append_eq_add {m n : Nat} (x : BitVec m) (y : BitVec n) :
    (x ++ y).toNat = x.toNat * 2 ^ n + y.toNat := by
  rw [BitVec.toNat_append, ← Nat.shiftLeft_add_eq_or_of_lt y.isLt, Nat.shiftLeft_eq]

/-- The spec's sum of shifted fields is the model's concatenation of them. -/
theorem commandWord_eq_packWord (op : BitVec 8) (ra rb ci w : BitVec 2) (f : BitVec 8) :
    commandWord op.toNat ra.toNat rb.toNat ci.toNat w.toNat f.toNat = packWord op ra rb ci w f := by
  refine BitVec.eq_of_toNat_eq ?_
  have hop := op.isLt
  simp only [commandWord, packWord, BitVec.toNat_ofNat, toNat_append_eq_add]
  omega

theorem regNumber_eq_toBits (r : Reg) : regNumber r = r.toBits.toNat := by cases r <;> rfl

@[simp] theorem Reg.ofBits_toBits (r : Reg) : Reg.ofBits r.toBits = r := by cases r <;> rfl

/-- The decoder on a word of a known row whose unused fields are 0: only CI and F can still be illegal. -/
theorem decode_packWord {op : BitVec 8} {ra rb ci w : BitVec 2} {f : BitVec 8} {row : OpRow}
    (hrow : opMap op.toNat = some row)
    (hzero : ((!row.usesRA && ra != 0#2) || (!row.usesRB && rb != 0#2) || (!row.usesCI && ci != 0#2) ||
      (!row.usesW && w != 0#2) || (!row.usesF && f != 0#8)) = false) :
    decode (packWord op ra rb ci w f) =
      if row.usesCI && !legalCarrySelect ci then .error .illegalCarrySelect
      else if row.usesF && !legalRegisterNumber f then .error .illegalRegisterNumber
      else .ok (row.build (Reg.ofBits ra) (Reg.ofBits rb) ci w f) := by
  obtain ⟨hop, hra, hrb, hci, hw, hf, hlow⟩ := Laws.EncodingForm.packWord_fields op ra rb ci w f
  simp [decode, hop, hra, hrb, hci, hw, hf, hlow, hrow, hzero]

/-! ## The four kinds of row of the ALU commands -/

section
variable {op : BitVec 8} (ra rb : Reg)

theorem decode_rowRA {c : Reg → Instr} (h : opMap op.toNat = some (rowRA c)) :
    decode (commandWord op.toNat (regNumber ra) 0 0 0 0) = .ok (c ra) := by
  have hdecode := decode_packWord (ra := ra.toBits) (rb := 0#2) (ci := 0#2) (w := 0#2) (f := 0#8) h rfl
  rw [← commandWord_eq_packWord, ← regNumber_eq_toBits] at hdecode
  simpa [rowRA] using hdecode

theorem decode_rowRARB {c : Reg → Reg → Instr} (h : opMap op.toNat = some (rowRARB c)) :
    decode (commandWord op.toNat (regNumber ra) (regNumber rb) 0 0 0) = .ok (c ra rb) := by
  have hdecode := decode_packWord (ra := ra.toBits) (rb := rb.toBits) (ci := 0#2) (w := 0#2) (f := 0#8) h rfl
  rw [← commandWord_eq_packWord, ← regNumber_eq_toBits, ← regNumber_eq_toBits] at hdecode
  simpa [rowRARB] using hdecode

theorem decode_rowRAW {c : Reg → BitVec 2 → Instr} (w : BitVec 2) (h : opMap op.toNat = some (rowRAW c)) :
    decode (commandWord op.toNat (regNumber ra) 0 0 w.toNat 0) = .ok (c ra w) := by
  have hdecode := decode_packWord (ra := ra.toBits) (rb := 0#2) (ci := 0#2) (w := w) (f := 0#8) h rfl
  rw [← commandWord_eq_packWord, ← regNumber_eq_toBits] at hdecode
  simpa [rowRAW] using hdecode

/-- CI = 3 is the one illegal carry select (30_encoding.md R68). -/
theorem decode_rowRARBCI {c : Reg → Reg → BitVec 2 → Instr} (ci : BitVec 2)
    (h : opMap op.toNat = some (rowRARBCI c)) :
    decode (commandWord op.toNat (regNumber ra) (regNumber rb) ci.toNat 0 0) =
      if ci = 3#2 then .error .illegalCarrySelect else .ok (c ra rb ci) := by
  have hdecode := decode_packWord (ra := ra.toBits) (rb := rb.toBits) (ci := ci) (w := 0#2) (f := 0#8) h rfl
  rw [← commandWord_eq_packWord, ← regNumber_eq_toBits, ← regNumber_eq_toBits] at hdecode
  simpa [rowRARBCI, legalCarrySelect] using hdecode

theorem decode_rowRARBCI_illegal {c : Reg → Reg → BitVec 2 → Instr} (h : opMap op.toNat = some (rowRARBCI c)) :
    ∃ e, decode (commandWord op.toNat (regNumber ra) (regNumber rb) 3 0 0) = .error e :=
  ⟨_, decode_rowRARBCI ra rb 3#2 h⟩

theorem decode_rowRARBCI_legal {c : Reg → Reg → BitVec 2 → Instr} {ci : BitVec 2} (hci : ci ≠ 3#2)
    (h : opMap op.toNat = some (rowRARBCI c)) :
    decode (commandWord op.toNat (regNumber ra) (regNumber rb) ci.toNat 0 0) = .ok (c ra rb ci) :=
  (decode_rowRARBCI ra rb ci h).trans (if_neg hci)

end

end Sys2Proof.Machine
end

section
/-! ALU commands (41_alu.md). A command computes its result and its flags and ends in one of four ways: Z and N from one
register's result, C, V, Z and N from it, two results, or flags alone. Each end has one rule; a command's proof then
says what its value is. -/

namespace Sys2Proof.Machine

/-! ## The current width (00_scope.md R11) -/

theorem widthNow_pos (s : State) : 0 < widthNow s := by
  have := widthNow_cases s
  omega

theorem widthNow_le (s : State) : widthNow s ≤ 64 := by
  have := widthNow_cases s
  omega

theorem sext_operandWidth_isSext (s : State) (v : BitVec 64) : IsSext (widthNow s) v (sext s.operandWidth v) := by
  rw [s.operandWidth_eq]
  exact sext_isSext _ (widthNow_pos s) (widthNow_le s) v

/-! ## Frames: what no ALU command touches -/

/-- The special-purpose registers, the Stack unit, the inputs and the parameters are as they were. -/
structure SameBeside (s t : State) : Prop where
  sprs : SameSprs s t
  stk : t.stk = s.stk
  inputs : SameInputs s t

/-- A command's frame is that of its registers and status bits, where it touches nothing beside them. -/
theorem OnlyWrites.of_frames {written : List Reg} {bits : List Nat} {s u : State} {q : BitVec 64}
    (h : Frames written bits s (finish u q)) (hu : SameBeside s u) :
    OnlyWrites written bits s (u.drive q .noError) := by
  obtain ⟨hregs, hsw⟩ := h _ rfl
  refine ⟨hregs, hsw, fun n => (u.drive_spr q .noError n).trans (hu.sprs n), ?_, hu.inputs⟩
  simp only [SameStack, State.byteAt, State.drive_stk, hu.stk, implies_true, and_self]

section
variable (s : State) (ra rb : Reg)

theorem SameBeside.refl : SameBeside s s := ⟨fun _ => rfl, rfl, rfl, rfl, rfl, rfl⟩

theorem SameBeside.setX (v : BitVec 64) : SameBeside s (s.setX ra v) :=
  ⟨fun n => by simp, by simp, by simp [SameInputs]⟩

theorem SameBeside.setTwo (va vb : BitVec 64) : SameBeside s (s.setTwo ra rb va vb) :=
  ⟨fun n => by simp, by simp, by simp [SameInputs]⟩

theorem SameBeside.putFlag {s t : State} (h : SameBeside s t) (f : SwField) (b : Bool) :
    SameBeside s (t.putFlag f b) :=
  ⟨fun n => by rw [State.putFlag_spr, h.sprs n], h.stk, h.inputs⟩

theorem SameBeside.putZN {s t : State} (h : SameBeside s t) (r : BitVec 64) : SameBeside s (t.putZN r) :=
  (h.putFlag .z _).putFlag .n _

/-! ## The ends of the ALU commands -/

theorem drive_swBit (q : BitVec 64) (e : ErrorCode) (i : Nat) : swBit i (s.drive q e) = swBit i s := rfl

theorem putFlag_swBit {f : SwField} (hw : f.width = 1) (b : Bool) {i : Nat} (hi : i < 32) :
    swBit i (s.putFlag f b) = if i = f.lo then b else swBit i s :=
  s.putFlag_swBit f b i hi hw

/-- R120 to R127: the result in RA, Z and N from it. -/
theorem finishZN_spec (r : BitVec 64) :
    ∃ t, Completes (finishZN ra r s) 0#64 t ∧ t.x ra = r ∧ swBit 29 t = (t.x ra == 0#64) ∧
      swBit 28 t = (t.x ra).msb ∧ OnlyWrites [ra] [29, 28] s t := by
  have hx : (((s.setX ra r).putZN r).drive 0#64 .noError).x ra = r := by simp
  refine ⟨_, .of_finish _ 0#64, hx, ?_, ?_,
    .of_frames (finishZN_frames s ra r) ((SameBeside.setX s ra r).putZN r)⟩ <;>
    rw [hx, swBit, State.drive_sw, State.putZN_swBit _ r _ (by decide)] <;> rfl

/-- R118, R119: the raw result extended in RA, Z and N from what RA then holds, V too by `v`, and C as computed. -/
theorem finishCVZN_spec (raw : BitVec 64) (c : Bool) (v : BitVec 64 → Bool) :
    ∃ t, Completes (finish ((s.setX ra (sext s.operandWidth raw)).putCVZN c (v (sext s.operandWidth raw))
        (sext s.operandWidth raw)) 0#64) 0#64 t ∧
      IsSext (widthNow s) raw (t.x ra) ∧ swBit 31 t = c ∧ swBit 30 t = v (t.x ra) ∧ swBit 29 t = (t.x ra == 0#64) ∧
      swBit 28 t = (t.x ra).msb ∧ OnlyWrites [ra] [31, 30, 29, 28] s t := by
  have hsext := sext_operandWidth_isSext s raw
  generalize sext s.operandWidth raw = r at hsext ⊢
  have hx : (((s.setX ra r).putCVZN c (v r) r).drive 0#64 .noError).x ra = r := by simp
  refine ⟨_, .of_finish _ 0#64, hx.symm ▸ hsext, ?_, ?_, ?_, ?_,
    .of_frames (.finish (Keeps.aluResult s ra r c (v r)) 0#64)
      ((((SameBeside.setX s ra r).putFlag .c c).putFlag .v (v r)).putZN r)⟩ <;>
    rw [drive_swBit, swBit, State.putCVZN_swBit _ c (v r) r _ (by decide)] <;> simp [hx]

/-- R16: the two results stand as the spec says, in whatever state has their registers. -/
theorem State.setTwo_twoResults {t : State} {va vb : BitVec 64} (h : ∀ r, t.x r = (s.setTwo ra rb va vb).x r) :
    Spec.TwoResults ra rb va vb s t := by
  unfold Spec.TwoResults
  split_ifs with hab
  · subst hab
    rw [h, State.setTwo_x]
    cases s.draw <;> simp
  · have hba : rb ≠ ra := fun he => hab he.symm
    simp [h, State.setTwo_x, hab, hba]

end

/-! ## Values of the shared computations -/

/-- A command that ends in the extension of `v` with its Z and N. -/
theorem writesExtended_of_exec {i : Instr} {ra : Reg} {v : BitVec 64} {s : State}
    (h : exec i s = finishZN ra (sext s.operandWidth v) s) : Spec.WritesExtended i ra v s := by
  obtain ⟨t, ht, hx, hz, hn, hframe⟩ := finishZN_spec s ra (sext s.operandWidth v)
  exact ⟨t, h ▸ ht, hx ▸ sext_operandWidth_isSext s v, hz, hn, hframe⟩

/-- The carry-in of a legal CI is the spec's (30_encoding.md R68). -/
theorem carryIn_spec {ci : BitVec 2} (h : ci ≠ 3#2) (s : State) :
    ∃ cin, s.carryIn ci = some cin ∧ cin.toNat = Spec.carryIn ci s := by
  refine ⟨_, s.carryIn_eq ci h, ?_⟩
  unfold Spec.carryIn
  split_ifs <;> rfl

theorem borrowIn_spec {ci : BitVec 2} {s : State} {cin : Bool} (h : cin.toNat = Spec.carryIn ci s) :
    (s.borrowIn cin).toNat = Spec.borrowIn ci s := by
  unfold State.borrowIn Spec.borrowIn
  cases s.params.subBorrow
  · exact h
  · rw [← h]
    cases cin <;> rfl

theorem addRaw_toNat (a b : BitVec 64) (cin : Bool) :
    (addRaw a b cin).toNat = (a.toNat + b.toNat + cin.toNat) % 2 ^ 64 := BitVec.toNat_ofNat ..

theorem toNat_ofInt64 (p : Int) : ((BitVec.ofInt 64 p).toNat : Int) = p % 2 ^ 64 := by
  rw [BitVec.toNat_ofInt, Int.toNat_of_nonneg (Int.emod_nonneg p (by decide))]
  rfl

theorem subRaw_toNat (a b : BitVec 64) (bin : Bool) :
    ((subRaw a b bin).toNat : Int) = (a.toNat - b.toNat - bin.toNat : Int) % 2 ^ 64 := toNat_ofInt64 _

theorem subCarry_eq (a raw : BitVec 64) : subCarry a raw = decide (raw.toNat ≤ a.toNat) := by
  simp [subCarry, ← decide_not]

/-- R126's loop is iteration of its body. -/
theorem shiftInOnes_eq_iterate (n : Nat) (r : BitVec 64) :
    shiftInOnes n r = (fun v : BitVec 64 => v >>> 1 ||| 0x8000000000000000#64)^[n] r := by
  induction n generalizing r with
  | zero => rfl
  | succ n ih => rw [shiftInOnes, ih, Function.iterate_succ_apply]

/-- SAR's shifted value is R126's loop on a negative operand and a plain shift on another. -/
theorem shiftRightSigned64_spec (a : BitVec 64) (n : Nat) :
    if a.msb then
      shiftRightSigned64 a n = (if 64 ≤ n then 0xFFFFFFFFFFFFFFFF#64
        else (fun v : BitVec 64 => v >>> 1 ||| 0x8000000000000000#64)^[n] a)
    else (shiftRightSigned64 a n).toNat = a.toNat / 2 ^ n := by
  unfold shiftRightSigned64
  split_ifs with hneg hbig
  · rfl
  · exact shiftInOnes_eq_iterate n a
  · exact shiftRight64_toNat a n

/-! ### The 64-bit product (R127) -/

theorem toInt_natAbs_le (a : BitVec 64) : a.toInt.natAbs ≤ 2 ^ 63 := by
  have hlow := a.le_toInt
  have hhigh := a.toInt_lt
  omega

theorem product_natAbs_lt (a b : BitVec 64) : (a.toInt * b.toInt).natAbs < 2 ^ 128 := by
  rw [Int.natAbs_mul]
  exact (Nat.mul_le_mul (toInt_natAbs_le a) (toInt_natAbs_le b)).trans_lt (by decide)

theorem toInt_ofInt64 {p : Int} (h : -2 ^ 63 ≤ p ∧ p ≤ 2 ^ 63 - 1) : (BitVec.ofInt 64 p).toInt = p :=
  BitVec.toInt_ofInt_eq_self (by decide) h.1 (by omega)

/-- The two words of a product of two registers are the spec's, whichever way a negative one is split. -/
theorem mul64Words_spec (split : Mul64NegSplit) {p : Int} (hp : p.natAbs < 2 ^ 128) :
    Spec.ProductWords split p (mul64Words split p).1 (mul64Words split p).2 := by
  unfold Spec.ProductWords mul64Words
  by_cases hfits : -2 ^ 63 ≤ p ∧ p ≤ 2 ^ 63 - 1
  · simp only [if_pos hfits, toInt_ofInt64 hfits, and_self]
  · simp only [if_neg hfits]
    by_cases hpos : 0 < p
    · simp only [hpos, if_true, BitVec.toNat_ofNat]
      omega
    · simp only [hpos, if_false]
      cases split <;> simp only [BitVec.toNat_ofNat] <;> omega

/-! ### The quotient (R128) -/

/-- A quotient of magnitudes with the product of the signs is the truncated quotient. -/
theorem sign_mul_div_eq_tdiv (a b : Int) : a.sign * b.sign * (a.natAbs / b.natAbs : Nat) = a.tdiv b := by
  rw [← Int.sign_mul_natAbs (a.tdiv b), Int.natAbs_tdiv, Int.sign_tdiv]
  split_ifs with h
  · simp [Nat.div_eq_of_lt h]
  · rfl


/-- The spec's quotient and remainder (R128): truncating division, but for -2^63 by -1. -/
def QuotientRemainder (a b quot rem : BitVec 64) : Prop :=
  if a.toInt = -2 ^ 63 ∧ b.toInt = -1 then quot.toInt = -2 ^ 63 ∧ rem.toInt = 0
  else quot.toInt = Int.tdiv a.toInt b.toInt ∧ rem.toInt = a.toInt - quot.toInt * b.toInt

/-- The two words DIVS computes as integers are 64-bit values: the only quotient out of range is the one the command
treats apart. -/
theorem divWords_spec (a b : BitVec 64) :
    ∃ quot rem : BitVec 64, divWords a.toInt b.toInt = (quot.toInt, rem.toInt) ∧
      QuotientRemainder a b quot rem := by
  unfold divWords QuotientRemainder
  by_cases hover : a.toInt = -2 ^ 63 ∧ b.toInt = -1
  · refine ⟨BitVec.intMin 64, 0#64, ?_, ?_⟩ <;> rw [if_pos hover]
    · rfl
    · exact ⟨rfl, rfl⟩
  · have hne : a ≠ BitVec.intMin 64 ∨ b ≠ -1#64 := by
      by_contra! h
      exact hover ⟨by rw [h.1]; rfl, by rw [h.2]; rfl⟩
    have hquot : (a.sdiv b).toInt = a.toInt.tdiv b.toInt := BitVec.toInt_sdiv_of_ne_or_ne a b hne
    have hrem : (a.srem b).toInt = a.toInt - (a.sdiv b).toInt * b.toInt := by
      rw [BitVec.toInt_srem, Int.tmod_def, hquot, mul_comm]
    refine ⟨a.sdiv b, a.srem b, ?_, ?_⟩ <;> rw [if_neg hover]
    · simp only [sign_mul_div_eq_tdiv, hrem, hquot]
    · exact ⟨hquot, hrem⟩

/-! ## MULS and DIVS, an equation per case -/

section
variable (s : State) (ra rb : Reg)

theorem execMuls_narrow (h : widthNow s ≤ 32) :
    execMuls ra rb s = finishZN ra (BitVec.ofInt 64 ((s.x ra).toInt * (s.x rb).toInt)) s :=
  if_pos (s.operandWidth_eq.symm ▸ h)

theorem execMuls_wide (h : widthNow s = 64) :
    execMuls ra rb s =
      let words := mul64Words s.params.mul64NegSplit ((s.x ra).toInt * (s.x rb).toInt)
      finish (((s.setTwo ra rb words.1 words.2).putFlag .z (words.1 == 0#64 && words.2 == 0#64)).putFlag .n
        words.2.msb) 0#64 :=
  if_neg (by rw [s.operandWidth_eq, h]; decide)

theorem execDivs_zero (h : s.x rb = 0#64) : execDivs ra rb s = .next (s.drive 0#64 .divisionByZero) := if_pos h

theorem execDivs_nonzero (h : s.x rb ≠ 0#64) {quot rem : BitVec 64}
    (hwords : divWords (s.x ra).toInt (s.x rb).toInt = (quot.toInt, rem.toInt)) :
    execDivs ra rb s =
      finish ((((s.setTwo ra rb quot rem).putFlag .z (quot.toInt == 0)).putFlag .n (decide (quot.toInt < 0))).putFlag .v
        (decide (rem.toInt < 0))) 0#64 := by
  rw [execDivs, if_neg h, hwords]
  simp only [BitVec.ofInt_toInt]

end

/-! ## The statements -/

/-- Settles O18: the raw sum is `addRaw`, and the answer ends as `finishCVZN_spec` says. -/
theorem addGivesSumFlagsAndFrame : Obligations.AddGivesSumFlagsAndFrame := by
  refine ⟨fun ra rb => decode_rowRARBCI_illegal (op := 0x10#8) ra rb rfl, fun ra rb ci s hci =>
    ⟨decode_rowRARBCI_legal (op := 0x10#8) ra rb hci rfl, ?_⟩⟩
  obtain ⟨cin, hcin, hspec⟩ := carryIn_spec hci s
  have hexec : exec (.add ra rb ci) s = execAdd ra rb ci s := rfl
  rw [hexec, execAdd, hcin, ← hspec]
  obtain ⟨t, ht, hsum⟩ := finishCVZN_spec s ra (addRaw (s.x ra) (s.x rb) cin)
    (addCarry (s.x ra) (addRaw (s.x ra) (s.x rb) cin)) (addOverflow (s.x ra) (s.x rb))
  exact ⟨t, _, ht, addRaw_toNat _ _ _, hsum⟩

/-- Settles O19: the raw difference is `subRaw`, and the answer ends as `finishCVZN_spec` says. -/
theorem subGivesDifferenceFlagsAndFrame : Obligations.SubGivesDifferenceFlagsAndFrame := by
  refine ⟨fun ra rb => decode_rowRARBCI_illegal (op := 0x11#8) ra rb rfl, fun ra rb ci s hci =>
    ⟨decode_rowRARBCI_legal (op := 0x11#8) ra rb hci rfl, ?_⟩⟩
  obtain ⟨cin, hcin, hspec⟩ := carryIn_spec hci s
  have hexec : exec (.sub ra rb ci) s = execSub ra rb ci s := rfl
  rw [hexec, execSub, hcin, ← borrowIn_spec hspec]
  obtain ⟨t, ht, hdiff⟩ := finishCVZN_spec s ra (subRaw (s.x ra) (s.x rb) (s.borrowIn cin))
    (subCarry (s.x ra) (subRaw (s.x ra) (s.x rb) (s.borrowIn cin))) (subOverflow (s.x ra) (s.x rb))
  rw [subCarry_eq] at hdiff
  exact ⟨t, _, ht, subRaw_toNat _ _ _, hdiff⟩

/-- Settles O20: each command's value is the model's bitwise operation, read bit by bit. -/
theorem bitwiseCommandsGiveExtendedResult : Obligations.BitwiseCommandsGiveExtendedResult := by
  intro ra rb s
  refine ⟨⟨decode_rowRARB (op := 0x12#8) ra rb rfl, s.x ra &&& s.x rb, fun _ => BitVec.getLsbD_and, ?_⟩,
    ⟨decode_rowRARB (op := 0x13#8) ra rb rfl, s.x ra ||| s.x rb, fun _ => BitVec.getLsbD_or, ?_⟩,
    ⟨decode_rowRARB (op := 0x14#8) ra rb rfl, s.x ra ^^^ s.x rb, fun _ => BitVec.getLsbD_xor, ?_⟩⟩ <;>
    exact writesExtended_of_exec rfl

/-- Settles O21: three flag writes and no other, each flag read back past the writes after it. -/
theorem compareSetsItsThreeFlagsAlone : Obligations.CompareSetsItsThreeFlagsAlone := by
  intro ra rb s
  refine ⟨decode_rowRARB (op := 0x15#8) ra rb rfl, _, .of_finish _ 0#64, ?_, ?_, ?_,
    .of_frames (execCmp_frames s ra rb) ((((SameBeside.refl s).putFlag .c _).putFlag .v _).putFlag .z _)⟩ <;>
    rw [drive_swBit, putFlag_swBit _ rfl _ (by decide), putFlag_swBit _ rfl _ (by decide),
      putFlag_swBit _ rfl _ (by decide)] <;> rfl

/-- Settles O24: the shifted value, for a count past 63 too, is `shiftLeft64_toNat`'s. -/
theorem shiftLeftGivesExtendedResult : Obligations.ShiftLeftGivesExtendedResult := fun ra s =>
  ⟨decode_rowRA (op := 0x16#8) ra rfl, _, shiftLeft64_toNat (s.x ra) s.shiftCount, writesExtended_of_exec rfl⟩

/-- Settles O25: the operand is cut to the current width before it is shifted. -/
theorem shiftRightGivesExtendedResult : Obligations.ShiftRightGivesExtendedResult := by
  intro ra s
  refine ⟨decode_rowRA (op := 0x17#8) ra rfl, shiftRight64 (zext s.operandWidth (s.x ra)) s.shiftCount, ?_,
    writesExtended_of_exec rfl⟩
  rw [shiftRight64_toNat, s.operandWidth_eq, zext_toNat _ (widthNow_le s), State.shiftCount]

/-- Settles O27: the width is W's, and the register is the only write. -/
theorem signExtendWritesRegisterAlone : Obligations.SignExtendWritesRegisterAlone := by
  intro ra w s
  refine ⟨decode_rowRAW (op := 0x1B#8) ra w rfl, _, .of_finish _ 0#64, ?_,
    .of_frames (.writeRegister ra _) (.setX s ra _)⟩
  have hwidth : 8 * 2 ^ w.toNat ≤ 64 := Nat.mul_le_mul_left 8 (Nat.pow_le_pow_right (by decide) (by omega) :
    2 ^ w.toNat ≤ 2 ^ 3)
  rw [State.drive_x, State.setX_x_self]
  exact sext_isSext _ (by positivity) hwidth (s.x ra)

/-- Settles O28: below 64 bits the product's low word, at 64 bits both words of `mul64Words_spec`. -/
theorem multiplyGivesProductFlagsAndFrame : Obligations.MultiplyGivesProductFlagsAndFrame := by
  intro ra rb s
  have hexec : exec (.muls ra rb) s = execMuls ra rb s := rfl
  have hframes := execMuls_frames s ra rb
  refine ⟨decode_rowRARB (op := 0x19#8) ra rb rfl, ?_⟩
  rw [hexec]
  split_ifs with h32
  · rw [execMuls_narrow s ra rb h32]
    obtain ⟨t, ht, hx, hz, hn, hframe⟩ := finishZN_spec s ra (BitVec.ofInt 64 ((s.x ra).toInt * (s.x rb).toInt))
    exact ⟨t, ht, hx ▸ toNat_ofInt64 _, hz, hn, hframe⟩
  · have h64 : widthNow s = 64 := by
      have := widthNow_cases s
      omega
    have hwords := mul64Words_spec s.params.mul64NegSplit (product_natAbs_lt (s.x ra) (s.x rb))
    rw [if_pos h64, execMuls_wide s ra rb h64] at hframes
    rw [execMuls_wide s ra rb h64]
    generalize mul64Words s.params.mul64NegSplit ((s.x ra).toInt * (s.x rb).toInt) = words at hwords hframes ⊢
    refine ⟨_, .of_finish _ 0#64, words.1, words.2, hwords, s.setTwo_twoResults ra rb fun r => by simp, ?_, ?_,
      .of_frames hframes (((SameBeside.setTwo s ra rb _ _).putFlag .z _).putFlag .n _)⟩ <;>
      rw [drive_swBit, putFlag_swBit _ rfl _ (by decide), putFlag_swBit _ rfl _ (by decide)] <;> rfl

/-- Settles O30: a divisor of 0 only reports; another gives the words of `divWords_spec`. -/
theorem divideGivesQuotientRemainderAndFlags : Obligations.DivideGivesQuotientRemainderAndFlags := by
  intro ra rb s
  have hexec : exec (.divs ra rb) s = execDivs ra rb s := rfl
  have hframes := execDivs_frames s ra rb
  rw [hexec]
  refine ⟨decode_rowRARB (op := 0x1A#8) ra rb rfl, fun hzero => ⟨_, execDivs_zero s ra rb hzero, rfl⟩,
    fun hne => ?_⟩
  obtain ⟨quot, rem, hwords, hqr⟩ := divWords_spec (s.x ra) (s.x rb)
  rw [execDivs_nonzero s ra rb hne hwords] at hframes ⊢
  refine ⟨_, quot, rem, .of_finish _ 0#64, hqr, s.setTwo_twoResults ra rb fun r => by simp, ?_, ?_, ?_,
    .of_frames hframes ((((SameBeside.setTwo s ra rb _ _).putFlag .z _).putFlag .n _).putFlag .v _)⟩ <;>
    rw [drive_swBit, putFlag_swBit _ rfl _ (by decide), putFlag_swBit _ rfl _ (by decide),
      putFlag_swBit _ rfl _ (by decide)] <;> rfl

/-- Settles O57: the shifted value is `shiftRightSigned64_spec`'s; the parameter decides whether it is extended. -/
theorem arithmeticShiftFollowsItsLoop : Obligations.ArithmeticShiftFollowsItsLoop := by
  intro ra s
  obtain ⟨t, ht, hx, hz, hn, hframe⟩ := finishZN_spec s ra
    (if s.params.sarFinalSext then sext s.operandWidth (shiftRightSigned64 (s.x ra) s.shiftCount)
      else shiftRightSigned64 (s.x ra) s.shiftCount)
  refine ⟨decode_rowRA (op := 0x18#8) ra rfl, t, _, ht, shiftRightSigned64_spec (s.x ra) s.shiftCount, ?_, hz, hn,
    hframe⟩
  rw [hx]
  split_ifs
  · exact sext_operandWidth_isSext s _
  · rfl

end Sys2Proof.Machine
end

section
/-! Register setters and accessors (42_register_access.md). Every row is field RA alone with one of three meanings, at
the row's width; at width 64 the extension is the identity, so the full-width commands, which the model writes without
one, fall under the same rule. -/

namespace Sys2Proof.Machine

/-! ## The full width (00_scope.md R12) -/

theorem sext_full_width (v : BitVec 64) : sext 64 v = v := by
  rw [sext, BitVec.setWidth_eq, BitVec.signExtend_eq]

theorem zext_full_width (v : BitVec 64) : zext 64 v = v := by
  rw [zext, BitVec.setWidth_eq, BitVec.setWidth_eq]

section
variable (ra : Reg) (s : State)

theorem setRegister_full_width : setRegister 64 ra s = finish (s.setX ra s.d) 0#64 := by
  rw [setRegister, sext_full_width]

theorem readUnsigned_full_width : readUnsigned 64 ra s = finish s (s.x ra) := by
  rw [readUnsigned, zext_full_width]

theorem readSigned_full_width : readSigned 64 ra s = finish s (s.x ra) := by
  rw [readSigned, sext_full_width]

/-! ## The rules of the three meanings (R135, R136) -/

variable {n : Nat}

theorem setRegister_spec (hpos : 0 < n) (hle : n ≤ 64) :
    ∃ t, Completes (setRegister n ra s) 0#64 t ∧ IsSext n s.d (t.x ra) ∧ OnlyWrites [ra] [] s t := by
  refine ⟨_, .of_finish _ 0#64, ?_, .of_frames (.writeRegister ra _) (.setX s ra _)⟩
  rw [State.drive_x, State.setX_x_self]
  exact sext_isSext n hpos hle s.d

theorem readUnsigned_spec (hle : n ≤ 64) :
    ∃ (t : State) (q : BitVec 64), Completes (readUnsigned n ra s) q t ∧ IsZext n (s.x ra) q ∧ OnlyWrites [] [] s t :=
  ⟨_, _, .of_finish s _, zext_isZext n hle (s.x ra), .drive s _ _⟩

theorem readSigned_spec (hpos : 0 < n) (hle : n ≤ 64) :
    ∃ (t : State) (q : BitVec 64), Completes (readSigned n ra s) q t ∧ IsSext n (s.x ra) q ∧ OnlyWrites [] [] s t :=
  ⟨_, _, .of_finish s _, sext_isSext n hpos hle (s.x ra), .drive s _ _⟩

end

/-! ## The spec's rows -/

/-- The command's word is OP and RA alone, and its meaning is `m` at the row's width, 1 to 64. -/
structure RegisterRow (m : Nat → Reg → State → Result) (e : (Reg → Instr) × Nat × Nat) : Prop where
  word : ∀ ra, decode (commandWord e.2.1 (regNumber ra) 0 0 0 0) = .ok (e.1 ra)
  width_pos : 0 < e.2.2
  width_le : e.2.2 ≤ 64
  meaning : ∀ ra s, exec (e.1 ra) s = m e.2.2 ra s

theorem RegisterRow.of_opMap {m : Nat → Reg → State → Result} {c : Reg → Instr} (op : BitVec 8) {n : Nat}
    (hrow : opMap op.toNat = some (rowRA c)) (hwidth : 0 < n ∧ n ≤ 64)
    (hexec : ∀ ra s, exec (c ra) s = m n ra s) : RegisterRow m (c, op.toNat, n) where
  word ra := decode_rowRA ra hrow
  width_pos := hwidth.1
  width_le := hwidth.2
  meaning := hexec

theorem setterRows_mean : ∀ e ∈ Spec.setterRows, RegisterRow setRegister e := by
  simp only [Spec.setterRows, List.forall_mem_cons]
  exact ⟨.of_opMap 0x20#8 rfl (by decide) fun _ _ => rfl, .of_opMap 0x21#8 rfl (by decide) fun _ _ => rfl,
    .of_opMap 0x22#8 rfl (by decide) fun _ _ => rfl,
    .of_opMap 0x23#8 rfl (by decide) fun ra s => (setRegister_full_width ra s).symm,
    .of_opMap 0x24#8 rfl (by decide) fun _ _ => rfl, .of_opMap 0x25#8 rfl (by decide) fun _ _ => rfl,
    .of_opMap 0x26#8 rfl (by decide) fun _ _ => rfl,
    .of_opMap 0x27#8 rfl (by decide) fun ra s => (setRegister_full_width ra s).symm, nofun⟩

theorem unsignedRows_mean : ∀ e ∈ Spec.unsignedRows, RegisterRow readUnsigned e := by
  simp only [Spec.unsignedRows, List.forall_mem_cons]
  exact ⟨.of_opMap 0x28#8 rfl (by decide) fun _ _ => rfl, .of_opMap 0x29#8 rfl (by decide) fun _ _ => rfl,
    .of_opMap 0x2A#8 rfl (by decide) fun _ _ => rfl,
    .of_opMap 0x2B#8 rfl (by decide) fun ra s => (readUnsigned_full_width ra s).symm, nofun⟩

theorem signedRows_mean : ∀ e ∈ Spec.signedRows, RegisterRow readSigned e := by
  simp only [Spec.signedRows, List.forall_mem_cons]
  exact ⟨.of_opMap 0x2C#8 rfl (by decide) fun _ _ => rfl, .of_opMap 0x2D#8 rfl (by decide) fun _ _ => rfl,
    .of_opMap 0x2E#8 rfl (by decide) fun _ _ => rfl,
    .of_opMap 0x2F#8 rfl (by decide) fun ra s => (readSigned_full_width ra s).symm, nofun⟩

/-! ## The statements -/

/-- Settles O32: every setter is `setRegister` at its width, by `setRegister_spec`. -/
theorem settersStoreTheExtendedInput : Obligations.SettersStoreTheExtendedInput := by
  intro e he ra
  obtain ⟨hword, hpos, hle, hexec⟩ := setterRows_mean e he
  refine ⟨hword ra, fun s => ?_⟩
  rw [hexec]
  exact setRegister_spec ra s hpos hle

/-- Settles O33: every unsigned accessor is `readUnsigned` at its width, by `readUnsigned_spec`. -/
theorem unsignedAccessorsDriveZeroExtension : Obligations.UnsignedAccessorsDriveZeroExtension := by
  intro e he ra
  obtain ⟨hword, -, hle, hexec⟩ := unsignedRows_mean e he
  refine ⟨hword ra, fun s => ?_⟩
  rw [hexec]
  exact readUnsigned_spec ra s hle

/-- Settles O34: every signed accessor is `readSigned` at its width, by `readSigned_spec`. -/
theorem signedAccessorsDriveSignExtension : Obligations.SignedAccessorsDriveSignExtension := by
  intro e he ra
  obtain ⟨hword, hpos, hle, hexec⟩ := signedRows_mean e he
  refine ⟨hword ra, fun s => ?_⟩
  rw [hexec]
  exact readSigned_spec ra s hpos hle

end Sys2Proof.Machine
end

section
/-! Stack commands (43_stack.md). Every row is a push or a pop of its number of bytes. In the bounds of R45 the buffer
after a push has one rule, byte by byte, and so has the value of a pop; nothing else of either command looks at the
buffer or at the RegisterFile. -/

namespace Sys2Proof.Machine

section
variable (s : State) (n : Nat)

/-! ## The answers, case by case (R154, R155) -/

theorem pushBytes_overflow (h : s.stkPtr < n - 1) : pushBytes n s = .next (s.drive 0#64 .stackOverflow) := if_pos h

theorem pushBytes_stores (hroom : n - 1 ≤ s.stkPtr) (hlen : s.stkPtr < s.params.stkLen) :
    pushBytes n s = finish (s.pushed n) 0#64 := by
  obtain ⟨h, -⟩ | ⟨-, -, h⟩ | ⟨-, h, -⟩ := pushBytes_cases n s
  · omega
  · exact h
  · omega

theorem popBytes_underflow (h : s.params.stkTop.toInt < s.stkPtr + n) :
    popBytes n s = .next (s.drive 0#64 .stackUnderflow) := if_pos h

/-- The number a pop of `n` bytes drives on `q` (20_memory.md R52). -/
def State.poppedValue : Nat := memReadBytes n s.stk.mem (s.stkPtr + 1).toNat

theorem popBytes_reads (htop : s.stkPtr + n ≤ s.params.stkTop.toInt) (hlow : -1 ≤ s.stkPtr)
    (hlen : s.stkPtr + n < s.params.stkLen) :
    popBytes n s = finish (s.popped n) (BitVec.ofNat 64 (s.poppedValue n)) := by
  obtain ⟨h, -⟩ | ⟨-, -, -, h⟩ | ⟨-, h, -⟩ := popBytes_cases n s
  · omega
  · exact h
  · omega

/-! ## The bytes a push leaves and a pop reads (20_memory.md R51, R52) -/

theorem State.pushed_byteAt (hwf : Memory.wf s.stk.mem = true) (k : Nat) :
    (s.pushed n).byteAt k =
      if (s.stkPtr - (n - 1)).toNat ≤ k ∧ k < (s.stkPtr - (n - 1)).toNat + n then
        byteOf s.d (k - (s.stkPtr - (n - 1)).toNat)
      else s.byteAt k :=
  memRead_memWriteBytes n s.stk.mem _ s.d.toNat k hwf

theorem State.poppedValue_lt : s.poppedValue n < 256 ^ n := memReadBytes_lt n _ _

variable {n}

/-- A value of at most eight bytes fits the port. -/
theorem State.poppedValue_toNat (hn : n ≤ 8) : (BitVec.ofNat 64 (s.poppedValue n)).toNat = s.poppedValue n := by
  rw [BitVec.toNat_ofNat]
  refine Nat.mod_eq_of_lt ?_
  calc s.poppedValue n < 256 ^ n := s.poppedValue_lt n
    _ ≤ 256 ^ 8 := Nat.pow_le_pow_right (by decide) hn
    _ = 2 ^ 64 := by decide

theorem State.poppedValue_byteOf (hn : n ≤ 8) {j : Nat} (hj : j < n) :
    byteOf (BitVec.ofNat 64 (s.poppedValue n)) j = s.byteAt ((s.stkPtr + 1).toNat + j) := by
  refine BitVec.eq_of_toNat_eq ?_
  rw [byteOf, s.poppedValue_toNat hn, BitVec.toNat_ofNat]
  exact memReadBytes_byte n s.stk.mem _ j hj

/-! ## The rules of the two operations -/

/-- R153: an update of the Stack unit leaves every register, SW and the inputs as they were. -/
theorem setStk_frame (k : StackUnit) (q : BitVec 64) (e : ErrorCode) :
    SameRegsExcept [] s ((s.setStk k).drive q e) ∧ SameSwExcept [] s ((s.setStk k).drive q e) ∧
      SameSprs s ((s.setStk k).drive q e) ∧ SameInputs s ((s.setStk k).drive q e) := by
  obtain ⟨hregs, hsw⟩ := ((Keeps.refl [] [] s).setStk k).drive q e
  exact ⟨hregs, hsw, fun i => by simp, rfl, rfl, rfl, rfl⟩

/-- R156 to R159 where the bytes fit: they stand from index `ptr - (n-1)` up and nothing else changes. -/
theorem pushBytes_spec (hn : n ≤ 8) (hwf : Memory.wf s.stk.mem = true) (hroom : n - 1 ≤ s.stkPtr)
    (hlen : s.stkPtr < s.params.stkLen) :
    ∃ t, Completes (pushBytes n s) 0#64 t ∧ t.stkPtr = s.stkPtr - n ∧
      (∀ j, j < n → t.byteAt ((s.stkPtr - (n - 1)).toNat + j) = byteOf s.d j) ∧
      (∀ k, k < (s.stkPtr - (n - 1)).toNat ∨ (s.stkPtr - (n - 1)).toNat + n ≤ k → t.byteAt k = s.byteAt k) ∧
      SameRegsExcept [] s t ∧ SameSwExcept [] s t ∧ SameSprs s t ∧ SameInputs s t := by
  rw [pushBytes_stores s n hroom hlen]
  refine ⟨_, .of_finish _ 0#64, stkPtr_sub s n hroom hn, fun j hj => ?_, fun k hk => ?_, setStk_frame s _ _ _⟩
  · rw [State.drive_byteAt, s.pushed_byteAt n hwf, if_pos (by omega), Nat.add_sub_cancel_left]
  · rw [State.drive_byteAt, s.pushed_byteAt n hwf, if_neg (by omega)]

/-- R160 to R163 where the bytes are held: they are read from index `ptr + 1` up, and only the pointer moves. -/
theorem popBytes_spec (hn : n ≤ 8) (htop : s.stkPtr + n ≤ s.params.stkTop.toInt) (hlow : -1 ≤ s.stkPtr)
    (hlen : s.stkPtr + n < s.params.stkLen) :
    ∃ (t : State) (q : BitVec 64), Completes (popBytes n s) q t ∧ q.toNat < 256 ^ n ∧
      (∀ j, j < n → byteOf q j = s.byteAt ((s.stkPtr + 1).toNat + j)) ∧
      t.stkPtr = s.stkPtr + n ∧ (∀ k, t.byteAt k = s.byteAt k) ∧
      SameRegsExcept [] s t ∧ SameSwExcept [] s t ∧ SameSprs s t ∧ SameInputs s t := by
  rw [popBytes_reads s n htop hlow hlen]
  refine ⟨_, _, .of_finish _ _, ?_, fun j hj => s.poppedValue_byteOf hn hj, stkPtr_add s n hlow htop hn,
    fun k => rfl, setStk_frame s _ _ _⟩
  rw [s.poppedValue_toNat hn]
  exact s.poppedValue_lt n

end

/-! ## The RegisterFile plays no part (R153) -/

/-- The operation keeps the RegisterFile, and any other in its place changes nothing of the next state but itself. -/
def IgnoresRegisterFile (m : State → Result) : Prop :=
  ∀ (s t : State) (rf : RegisterFile), m s = .next t → t.rf = s.rf ∧ m (s.setRf rf) = .next (t.setRf rf)

theorem pushBytes_ignoresRegisterFile (n : Nat) : IgnoresRegisterFile (pushBytes n) := by
  intro s t rf ht
  obtain ⟨hover, h⟩ | ⟨hroom, hlen, h⟩ | ⟨-, -, h⟩ := pushBytes_cases n s <;> rw [h] at ht
  · cases ht
    exact ⟨rfl, pushBytes_overflow (s.setRf rf) n hover⟩
  · cases ht
    exact ⟨rfl, pushBytes_stores (s.setRf rf) n hroom hlen⟩
  · cases ht

theorem popBytes_ignoresRegisterFile (n : Nat) : IgnoresRegisterFile (popBytes n) := by
  intro s t rf ht
  obtain ⟨hunder, h⟩ | ⟨htop, hlow, hlen, h⟩ | ⟨-, -, h⟩ := popBytes_cases n s <;> rw [h] at ht
  · cases ht
    exact ⟨rfl, popBytes_underflow (s.setRf rf) n hunder⟩
  · cases ht
    exact ⟨rfl, popBytes_reads (s.setRf rf) n htop hlow hlen⟩
  · cases ht

/-! ## The spec's rows -/

theorem pushRows_means : ∀ e ∈ Spec.pushRows, e.2.2 ≤ 8 ∧ Means e.1 e.2.1 (pushBytes e.2.2) := by
  simp only [Spec.pushRows, List.forall_mem_cons]
  exact ⟨⟨by decide, rfl, fun _ => rfl⟩, ⟨by decide, rfl, fun _ => rfl⟩, ⟨by decide, rfl, fun _ => rfl⟩,
    ⟨by decide, rfl, fun _ => rfl⟩, nofun⟩

theorem popRows_means : ∀ e ∈ Spec.popRows, e.2.2 ≤ 8 ∧ Means e.1 e.2.1 (popBytes e.2.2) := by
  simp only [Spec.popRows, List.forall_mem_cons]
  exact ⟨⟨by decide, rfl, fun _ => rfl⟩, ⟨by decide, rfl, fun _ => rfl⟩, ⟨by decide, rfl, fun _ => rfl⟩,
    ⟨by decide, rfl, fun _ => rfl⟩, nofun⟩

/-! ## The statements -/

/-- Settles O37: every row is `pushBytes` at its width, by `pushBytes_overflow` and `pushBytes_spec`. -/
theorem pushStoresBytesOrOverflows : Obligations.PushStoresBytesOrOverflows := by
  intro e he
  obtain ⟨hn, hword, hexec⟩ := pushRows_means e he
  refine ⟨hword, fun s => ?_⟩
  rw [hexec]
  exact ⟨fun hover => ⟨_, pushBytes_overflow s _ hover, rfl⟩, pushBytes_spec s hn⟩

/-- Settles O38: every row is `popBytes` at its width, by `popBytes_underflow` and `popBytes_spec`. -/
theorem popReadsBytesOrUnderflows : Obligations.PopReadsBytesOrUnderflows := by
  intro e he
  obtain ⟨hn, hword, hexec⟩ := popRows_means e he
  refine ⟨hword, fun s => ?_⟩
  rw [hexec]
  exact ⟨fun hunder => ⟨_, popBytes_underflow s _ hunder, rfl⟩, popBytes_spec s hn⟩

/-- Settles O41: a row is a push or a pop, and neither looks at the RegisterFile. -/
theorem stackCommandsIgnoreTheRegisterFile : Obligations.StackCommandsIgnoreTheRegisterFile := by
  intro e he s t rf ht
  obtain hpush | hpop := List.mem_append.mp he
  · obtain ⟨-, -, hexec⟩ := pushRows_means e hpush
    rw [hexec] at ht ⊢
    exact pushBytes_ignoresRegisterFile e.2.2 s t rf ht
  · obtain ⟨-, -, hexec⟩ := popRows_means e hpop
    rw [hexec] at ht ⊢
    exact popBytes_ignoresRegisterFile e.2.2 s t rf ht

end Sys2Proof.Machine
end

section
/-! Register-file commands (44_register_file.md). RFRD and RFWR reach the register F names through `sprNumbered`; a row
of `sprTable` says which register that is and how wide, and each command has one rule for whichever register it is.
RESET puts the reset RegisterFile in place and touches nothing beside it. -/

namespace Sys2Proof.Machine

/-! ## The special-purpose registers (10_state.md R41) -/

/-- K, how many bits the register holds. -/
def sprWidth (n : Spr) : Nat :=
  match n with
  | .ptr0 | .ptr1 | .cnt0 | .cnt1 | .pc | .sb => 32
  | .ofs0 | .ofs1 | .ix0 | .ix1 | .ixs0 | .ixs1 | .cnts0 | .cnts1 | .sp => 16

theorem sprWidth_le (n : Spr) : sprWidth n ≤ 64 := by cases n <;> decide

section
variable (s : State) (n : Spr) (v : BitVec 64)

theorem State.spr_toNat_lt : (s.spr n).toNat < 2 ^ sprWidth n := by
  cases n <;> exact (BitVec.toNat_setWidth_of_le (by decide)).trans_lt (BitVec.isLt _)

/-- A written register is read back as what was written, cut to its width. -/
@[simp] theorem State.setSpr_spr_self : (s.setSpr n v).spr n = zext (sprWidth n) v := by cases n <;> rfl

end

/-- What a row of R41's table says of the model: its number is a legal F, and F names the row's register. -/
structure SprRow (e : Nat × Spr × Nat) : Prop where
  number_le : e.1 ≤ 14
  names : sprNumbered (BitVec.ofNat 8 e.1) = some e.2.1
  width : e.2.2 = sprWidth e.2.1

theorem sprTable_rows : ∀ e ∈ sprTable, SprRow e := by
  have hrows : ∀ e ∈ sprTable,
      e.1 ≤ 14 ∧ sprNumbered (BitVec.ofNat 8 e.1) = some e.2.1 ∧ e.2.2 = sprWidth e.2.1 := by decide
  intro e he
  obtain ⟨hle, hnames, hwidth⟩ := hrows e he
  exact ⟨hle, hnames, hwidth⟩

/-! ## Words with field F alone (30_encoding.md R70) -/

section
variable {op : BitVec 8} {c : BitVec 8 → Instr}

theorem decode_rowF (h : opMap op.toNat = some (rowF c)) (f : BitVec 8) :
    decode (commandWord op.toNat 0 0 0 0 f.toNat) =
      if 14 < f.toNat then .error .illegalRegisterNumber else .ok (c f) := by
  have hdecode := decode_packWord (ra := 0#2) (rb := 0#2) (ci := 0#2) (w := 0#2) (f := f) h rfl
  rw [← commandWord_eq_packWord] at hdecode
  simpa [rowF, legalRegisterNumber] using hdecode

theorem decode_rowF_illegal (h : opMap op.toNat = some (rowF c)) {f : BitVec 8} (hf : 14 < f.toNat) :
    ∃ e, decode (commandWord op.toNat 0 0 0 0 f.toNat) = .error e :=
  ⟨_, (decode_rowF h f).trans (if_pos hf)⟩

theorem decode_rowF_sprRow (h : opMap op.toNat = some (rowF c)) {e : Nat × Spr × Nat} (he : SprRow e) :
    decode (commandWord op.toNat 0 0 0 0 e.1) = .ok (c (BitVec.ofNat 8 e.1)) := by
  have hle := he.number_le
  have hnum : (BitVec.ofNat 8 e.1).toNat = e.1 := Nat.mod_eq_of_lt (by omega)
  have hdecode := decode_rowF h (BitVec.ofNat 8 e.1)
  rwa [hnum, if_neg (by omega)] at hdecode

end

/-! ## The rules of the commands -/

section
variable (s : State) {f : BitVec 8} {n : Spr}

theorem exec_rfrd_of_names (h : sprNumbered f = some n) : exec (.rfrd f) s = finish s (s.spr n) := by
  change execRfrd f s = _
  rw [execRfrd, h]

theorem exec_rfwr_of_names (h : sprNumbered f = some n) : exec (.rfwr f) s = finish (s.setSpr n s.d) 0#64 := by
  change execRfwr f s = _
  rw [execRfwr, h]

/-- R165: the register is driven on `q` and nothing changes. -/
theorem rfrd_spec (h : sprNumbered f = some n) :
    ∃ t, Completes (exec (.rfrd f) s) (s.spr n) t ∧ OnlyWrites [] [] s t := by
  rw [exec_rfrd_of_names s h]
  exact ⟨_, .of_finish s _, .drive s _ _⟩

/-- R166: the register takes the low bits of the data input and nothing else changes. -/
theorem rfwr_spec (h : sprNumbered f = some n) :
    ∃ t, Completes (exec (.rfwr f) s) 0#64 t ∧ (t.spr n).toNat = s.d.toNat % 2 ^ sprWidth n ∧
      (∀ m, m ≠ n → t.spr m = s.spr m) ∧
      SameRegsExcept [] s t ∧ SameSwExcept [] s t ∧ SameStack s t ∧ SameInputs s t := by
  rw [exec_rfwr_of_names s h]
  obtain ⟨hregs, hsw⟩ := ((Keeps.refl [] [] s).setSpr n s.d).drive 0#64 .noError
  refine ⟨_, .of_finish _ 0#64, ?_, fun m hm => ?_, hregs, hsw, by simp [SameStack], by simp [SameInputs]⟩
  · rw [State.drive_spr, State.setSpr_spr_self]
    exact zext_isZext _ (sprWidth_le n) s.d
  · rw [State.drive_spr, State.setSpr_spr_ne s s.d hm]

end

/-! ## The statements -/

/-- Settles O35: every row's F names the row's register, read by `rfrd_spec`. -/
theorem registerFileReadDrivesTheRegister : Obligations.RegisterFileReadDrivesTheRegister := by
  have hop : opMap (0x50#8).toNat = some (rowF .rfrd) := rfl
  refine ⟨fun f hf => decode_rowF_illegal hop hf, fun e he => ?_⟩
  have hrow := sprTable_rows e he
  refine ⟨decode_rowF_sprRow hop hrow, fun s => ⟨?_, rfrd_spec s hrow.names⟩⟩
  rw [hrow.width]
  exact s.spr_toNat_lt e.2.1

/-- Settles O36: every row's F names the row's register, written by `rfwr_spec`. -/
theorem registerFileWriteWritesTheRegisterAlone : Obligations.RegisterFileWriteWritesTheRegisterAlone := by
  have hop : opMap (0x51#8).toNat = some (rowF .rfwr) := rfl
  refine ⟨fun f hf => decode_rowF_illegal hop hf, fun e he => ?_⟩
  have hrow := sprTable_rows e he
  refine ⟨decode_rowF_sprRow hop hrow, fun s => ?_⟩
  rw [hrow.width]
  exact rfwr_spec s hrow.names

/-- Settles O2: the RegisterFile after RESET is the reset one, whose values O1's lemmas give. -/
theorem resetCommandResetsTheRegisterFileAlone : Obligations.ResetCommandResetsTheRegisterFileAlone := by
  refine ⟨rfl, fun s => ?_⟩
  have hrf : ((s.setRf RegisterFile.reset).drive 0#64 .noError).rf = RegisterFile.reset := by simp
  exact ⟨_, ⟨exec_reset s, rfl, rfl⟩, State.x_of_rf_reset hrf, State.sw_of_rf_reset hrf,
    fun _ hsb hsp => State.spr_of_rf_reset hrf hsb hsp, by rw [hrf]; rfl, by rw [hrf]; rfl,
    by simp [SameStack], by simp [SameInputs]⟩

end Sys2Proof.Machine
end

section
/-! The decoder and the encoder as a whole (30_encoding.md R66, R72, R74). A row of the opcode map says which fields its
commands use; the facts about the 71 rows are said once, and the round trips and the legal words follow from them and
from how a word falls into its fields. -/

namespace Sys2Proof.Machine

/-! ## Every command's word decodes to it -/

/-- A command whose word is packed from the fields of a row, the unused ones 0 and the used ones legal. -/
theorem decode_encode_of_row {i : Instr} {op : BitVec 8} {ra rb ci w : BitVec 2} {f : BitVec 8} {row : OpRow}
    (hword : encode i = packWord op ra rb ci w f) (hrow : opMap op.toNat = some row)
    (hzero : ((!row.usesRA && ra != 0#2) || (!row.usesRB && rb != 0#2) || (!row.usesCI && ci != 0#2) ||
      (!row.usesW && w != 0#2) || (!row.usesF && f != 0#8)) = false)
    (hci : (row.usesCI && !legalCarrySelect ci) = false) (hf : (row.usesF && !legalRegisterNumber f) = false)
    (hbuild : row.build (Reg.ofBits ra) (Reg.ofBits rb) ci w f = i) : decode (encode i) = .ok i := by
  rw [hword, decode_packWord hrow hzero, hci, hf, hbuild]
  rfl

/-- Settles O7: every command is built by its row from the fields its word is packed from. -/
theorem decodeOfEncodeIsTheCommand : Obligations.DecodeOfEncodeIsTheCommand := by
  intro i hwf
  match i with
  | .add ra rb ci | .sub ra rb ci =>
    have hci : legalCarrySelect ci = true := hwf
    exact decode_encode_of_row rfl rfl rfl (by simp [rowRARBCI, hci]) rfl (by simp [rowRARBCI])
  | .and ra rb | .or ra rb | .xor ra rb | .cmp ra rb | .muls ra rb | .divs ra rb =>
    exact decode_encode_of_row rfl rfl rfl rfl rfl (by simp [rowRARB])
  | .shl ra | .shr ra | .sar ra | .setu8 ra | .setu16 ra | .setu32 ra | .setu64 ra | .seti8 ra | .seti16 ra
  | .seti32 ra | .seti64 ra | .getu8 ra | .getu16 ra | .getu32 ra | .getu64 ra | .geti8 ra | .geti16 ra
  | .geti32 ra | .geti64 ra =>
    exact decode_encode_of_row rfl rfl rfl rfl rfl (by simp [rowRA])
  | .sext ra w => exact decode_encode_of_row rfl rfl rfl rfl rfl (by simp [rowRAW])
  | .rfrd f | .rfwr f =>
    have hf : legalRegisterNumber f = true := hwf
    exact decode_encode_of_row rfl rfl rfl rfl (by simp [rowF, hf]) rfl
  | .swrd | .setc | .clrc | .getc | .setv | .clrv | .getv | .setz | .clrz | .getz | .setn | .clrn | .getn | .setid
  | .clrid | .getid | .selam | .getam | .selrs | .getrs | .selps | .getps | .selcs | .getcs | .selos | .getos
  | .selmm | .getmm | .setsys | .getsys | .setusr | .getusr | .reset | .push8 | .push16 | .push32 | .push64 | .pop8
  | .pop16 | .pop32 | .pop64 =>
    exact decode_encode_of_row rfl rfl rfl rfl rfl rfl

/-! ## A word that decodes is its command's word -/

/-- What a row says of its commands: their word is packed from OP and the used fields, and they are legal where a used
CI or F is. -/
structure RowMeans (op : Nat) (row : OpRow) : Prop where
  word : ∀ ra rb ci w f, encode (row.build ra rb ci w f) =
    packWord (BitVec.ofNat 8 op) (if row.usesRA then ra.toBits else 0#2) (if row.usesRB then rb.toBits else 0#2)
      (if row.usesCI then ci else 0#2) (if row.usesW then w else 0#2) (if row.usesF then f else 0#8)
  legal : ∀ ra rb ci w f, (row.build ra rb ci w f).wellFormed =
    if row.usesCI then legalCarrySelect ci else if row.usesF then legalRegisterNumber f else true

theorem opMap_means {op : Nat} {row : OpRow} (h : opMap op = some row) : RowMeans op row := by
  unfold opMap at h
  split at h <;> cases h <;> exact ⟨fun _ _ _ _ _ => rfl, fun _ _ _ _ _ => rfl⟩

/-- The checks of R74 on a word whose OP has the row `row`. -/
structure Accepts (row : OpRow) (cmd : BitVec 32) : Prop where
  low : cmd.extractLsb' 0 8 = 0#8
  ra : row.usesRA = false → cmd.extractLsb' 22 2 = 0#2
  rb : row.usesRB = false → cmd.extractLsb' 20 2 = 0#2
  ci : row.usesCI = false → cmd.extractLsb' 18 2 = 0#2
  w : row.usesW = false → cmd.extractLsb' 16 2 = 0#2
  f : row.usesF = false → cmd.extractLsb' 8 8 = 0#8
  legal_ci : row.usesCI = true → legalCarrySelect (cmd.extractLsb' 18 2) = true
  legal_f : row.usesF = true → legalRegisterNumber (cmd.extractLsb' 8 8) = true

/-- The decoder's four checks, as it makes them. -/
theorem accepts_iff (row : OpRow) (cmd : BitVec 32) :
    Accepts row cmd ↔ (cmd.extractLsb' 0 8 != 0#8) = false ∧
      ((!row.usesRA && cmd.extractLsb' 22 2 != 0#2) || (!row.usesRB && cmd.extractLsb' 20 2 != 0#2) ||
        (!row.usesCI && cmd.extractLsb' 18 2 != 0#2) || (!row.usesW && cmd.extractLsb' 16 2 != 0#2) ||
        (!row.usesF && cmd.extractLsb' 8 8 != 0#8)) = false ∧
      (row.usesCI && !legalCarrySelect (cmd.extractLsb' 18 2)) = false ∧
      (row.usesF && !legalRegisterNumber (cmd.extractLsb' 8 8)) = false := by
  simp only [Bool.or_eq_false_iff, Bool.and_eq_false_imp, Bool.not_eq_true', Bool.not_eq_false', bne_eq_false_iff_eq]
  constructor
  · rintro ⟨hlow, hra, hrb, hci, hw, hf, hlegal_ci, hlegal_f⟩
    exact ⟨hlow, ⟨⟨⟨⟨hra, hrb⟩, hci⟩, hw⟩, hf⟩, hlegal_ci, hlegal_f⟩
  · rintro ⟨hlow, ⟨⟨⟨⟨hra, hrb⟩, hci⟩, hw⟩, hf⟩, hlegal_ci, hlegal_f⟩
    exact ⟨hlow, hra, hrb, hci, hw, hf, hlegal_ci, hlegal_f⟩

/-- Four checks in a row let through what none of them rejects. -/
theorem checks_eq_ok_iff {b1 b2 b3 b4 : Bool} {e1 e2 e3 e4 : DecodeError} {i j : Instr} :
    (if b1 then .error e1 else if b2 then .error e2 else if b3 then .error e3 else if b4 then .error e4 else .ok j :
      Except DecodeError Instr) = .ok i ↔ (b1 = false ∧ b2 = false ∧ b3 = false ∧ b4 = false) ∧ j = i := by
  split_ifs with h1 h2 h3 h4 <;> simp [*]

theorem decode_eq_ok_iff (cmd : BitVec 32) (i : Instr) :
    decode cmd = .ok i ↔ ∃ row, opMap (cmd.extractLsb' 24 8).toNat = some row ∧ Accepts row cmd ∧
      row.build (Reg.ofBits (cmd.extractLsb' 22 2)) (Reg.ofBits (cmd.extractLsb' 20 2)) (cmd.extractLsb' 18 2)
        (cmd.extractLsb' 16 2) (cmd.extractLsb' 8 8) = i := by
  unfold decode
  cases hrow : opMap (cmd.extractLsb' 24 8).toNat with
  | none => simp
  | some row =>
    simp only [accepts_iff, Option.some.injEq, exists_eq_left']
    exact checks_eq_ok_iff

/-- A word with 0 in bits 7:0 is packed from its own fields (30_encoding.md R66). -/
theorem packWord_extract {cmd : BitVec 32} (hlow : cmd.extractLsb' 0 8 = 0#8) :
    packWord (cmd.extractLsb' 24 8) (cmd.extractLsb' 22 2) (cmd.extractLsb' 20 2) (cmd.extractLsb' 18 2)
      (cmd.extractLsb' 16 2) (cmd.extractLsb' 8 8) = cmd := by
  have hbyte : cmd.toNat % 256 = 0 := by simpa using congrArg BitVec.toNat hlow
  refine BitVec.eq_of_toNat_eq ?_
  simp only [packWord, toNat_append_eq_add, BitVec.extractLsb'_toNat, Nat.shiftRight_eq_div_pow, BitVec.toNat_ofNat]
  omega

@[simp] theorem Reg.toBits_ofBits (b : BitVec 2) : (Reg.ofBits b).toBits = b := by
  revert b
  decide

/-- A field that is 0 where it is not used. -/
theorem ite_field_eq {n : Nat} {used : Bool} {x : BitVec n} (h : used = false → x = 0#n) :
    (if used then x else 0#n) = x := by
  cases used
  · exact (h rfl).symm
  · rfl

/-- Settles O8: the word is packed from its fields, and those that its row does not use are 0. -/
theorem encodeOfDecodeIsTheWord : Obligations.EncodeOfDecodeIsTheWord := by
  intro cmd i hdecode
  obtain ⟨row, hrow, haccepts, rfl⟩ := (decode_eq_ok_iff cmd i).mp hdecode
  obtain ⟨hword, hlegal⟩ := opMap_means hrow
  obtain ⟨hlow, hra, hrb, hci, hw, hf, hlegal_ci, hlegal_f⟩ := haccepts
  rw [hword, hlegal]
  constructor
  · simp only [Reg.toBits_ofBits, BitVec.ofNat_toNat, BitVec.setWidth_eq]
    rw [ite_field_eq hra, ite_field_eq hrb, ite_field_eq hci, ite_field_eq hw, ite_field_eq hf, packWord_extract hlow]
  · split_ifs with huses_ci huses_f
    · exact hlegal_ci huses_ci
    · exact hlegal_f huses_f
    · rfl

/-! ## The legal words are those that decode -/

/-- The bits `lo` to `lo + n - 1` of a word. -/
def fieldMask (lo n : Nat) : BitVec 32 := (BitVec.allOnes n).setWidth 32 <<< lo

/-- The bits that are fixed in the words of a row, OP aside (30_encoding.md R67). -/
def fixedMask (row : OpRow) : BitVec 32 :=
  fieldMask 0 8 ||| (if row.usesRA then 0#32 else fieldMask 22 2) ||| (if row.usesRB then 0#32 else fieldMask 20 2) |||
    (if row.usesCI then 0#32 else fieldMask 18 2) ||| (if row.usesW then 0#32 else fieldMask 16 2) |||
    (if row.usesF then 0#32 else fieldMask 8 8)

theorem and_fieldMask_eq_zero_iff (cmd : BitVec 32) {lo n : Nat} (h : lo + n ≤ 32) :
    cmd &&& fieldMask lo n = 0#32 ↔ cmd.extractLsb' lo n = 0#n := by
  have hmask : ∀ i < 32, (fieldMask lo n).getLsbD i = decide (lo ≤ i ∧ i < lo + n) := by
    intro i hi
    simp only [fieldMask, BitVec.getLsbD_shiftLeft, BitVec.getLsbD_setWidth, BitVec.getLsbD_allOnes]
    grind
  constructor <;> intro hzero <;> refine BitVec.eq_of_getLsbD_eq fun i hi => ?_
  · have hbit := congrArg (BitVec.getLsbD · (lo + i)) hzero
    simpa [hmask (lo + i) (by omega), hi] using hbit
  · have hbit := congrArg (BitVec.getLsbD · (i - lo)) hzero
    rw [BitVec.getLsbD_and, hmask i hi]
    by_cases hin : lo ≤ i ∧ i < lo + n
    · simpa [hin, show i - lo < n by omega] using hbit
    · simp [hin]

theorem and_ite_fieldMask_eq_zero_iff (cmd : BitVec 32) (used : Bool) {lo n : Nat} (h : lo + n ≤ 32) :
    cmd &&& (if used then 0#32 else fieldMask lo n) = 0#32 ↔ (used = false → cmd.extractLsb' lo n = 0#n) := by
  cases used <;> simp [and_fieldMask_eq_zero_iff cmd h]

/-- The fields a row does not use, tested one by one or all at once. -/
theorem accepts_iff_fixedMask (row : OpRow) (cmd : BitVec 32) :
    Accepts row cmd ↔ cmd &&& fixedMask row = 0#32 ∧
      (row.usesCI = true → cmd.toNat / 2 ^ 18 % 4 ≠ 3) ∧ (row.usesF = true → cmd.toNat / 2 ^ 8 % 256 ≤ 14) := by
  have hci : legalCarrySelect (cmd.extractLsb' 18 2) = true ↔ cmd.toNat / 2 ^ 18 % 4 ≠ 3 := by
    simp [legalCarrySelect, ← BitVec.toNat_inj, Nat.shiftRight_eq_div_pow]
  have hf : legalRegisterNumber (cmd.extractLsb' 8 8) = true ↔ cmd.toNat / 2 ^ 8 % 256 ≤ 14 := by
    simp [legalRegisterNumber, Nat.shiftRight_eq_div_pow]
  simp (disch := decide) only [fixedMask, BitVec.and_or_distrib_left, BitVec.or_eq_zero_iff,
    and_fieldMask_eq_zero_iff, and_ite_fieldMask_eq_zero_iff, ← hci, ← hf]
  constructor
  · rintro ⟨hlow, hra, hrb, hci, hw, hf, hlegal_ci, hlegal_f⟩
    exact ⟨⟨⟨⟨⟨⟨hlow, hra⟩, hrb⟩, hci⟩, hw⟩, hf⟩, hlegal_ci, hlegal_f⟩
  · rintro ⟨⟨⟨⟨⟨⟨hlow, hra⟩, hrb⟩, hci⟩, hw⟩, hf⟩, hlegal_ci, hlegal_f⟩
    exact ⟨hlow, hra, hrb, hci, hw, hf, hlegal_ci, hlegal_f⟩

/-- The row of the spec's opcode table that a row of the model's map is. -/
theorem opMap_mem_opcodeRows {op : Nat} {row : OpRow} (h : opMap op = some row) :
    (op, fixedMask row) ∈ Spec.opcodeRows ∧ (row.usesCI = true ↔ op = 0x10 ∨ op = 0x11) ∧
      (row.usesF = true ↔ op = 0x50 ∨ op = 0x51) := by
  unfold opMap at h
  split at h <;> cases h <;> decide

theorem opMap_of_mem_opcodeRows {e : Nat × BitVec 32} (he : e ∈ Spec.opcodeRows) :
    ∃ row, opMap e.1 = some row ∧ fixedMask row = e.2 := by
  have hrows : ∀ e ∈ Spec.opcodeRows, (opMap e.1).map fixedMask = some e.2 := by decide
  exact Option.map_eq_some_iff.mp (hrows e he)

/-- Settles O6: the rows of the spec's table are those of the opcode map, and the checks are the same row by row. -/
theorem decoderAcceptsExactlyTheLegalWords : Obligations.DecoderAcceptsExactlyTheLegalWords := by
  intro cmd
  have hop : (cmd.extractLsb' 24 8).toNat = cmd.toNat / 2 ^ 24 := by
    rw [BitVec.extractLsb'_toNat, Nat.shiftRight_eq_div_pow]
    omega
  simp only [decode_eq_ok_iff, accepts_iff_fixedMask, hop, Spec.LegalWord]
  constructor
  · rintro ⟨i, row, hrow, ⟨hmask, hci, hf⟩, -⟩
    obtain ⟨hmem, huses_ci, huses_f⟩ := opMap_mem_opcodeRows hrow
    exact ⟨_, hmem, rfl, hmask, fun h => hci (huses_ci.mpr h), fun h => hf (huses_f.mpr h)⟩
  · rintro ⟨e, he, hcmd, hmask, hci, hf⟩
    obtain ⟨row, hrow, hfixed⟩ := opMap_of_mem_opcodeRows he
    obtain ⟨-, huses_ci, huses_f⟩ := opMap_mem_opcodeRows hrow
    exact ⟨_, row, hcmd ▸ hrow, ⟨hfixed ▸ hmask, fun h => hci (huses_ci.mp h), fun h => hf (huses_f.mp h)⟩, rfl⟩

/-- Settles O5: such a word does not decode, by O6. -/
theorem illegalWordRaisesIllegalCommand : Obligations.IllegalWordRaisesIllegalCommand := by
  intro s p rest hpending hillegal
  cases hdecode : decode p.cmd with
  | ok i => exact absurd ((decoderAcceptsExactlyTheLegalWords p.cmd).mp ⟨i, hdecode⟩) hillegal
  | error e => exact ⟨_, (step_cons s p rest hpending).trans (runCommand_error p.cmd e _ hdecode), rfl⟩

/-- Settles O9: each word falls into one row's fields. -/
theorem sampleWordsDecodeAsTheSpecSays : Obligations.SampleWordsDecodeAsTheSpecSays := by
  refine ⟨?_, ?_, ?_, ?_, ?_, ?_, ?_, ?_, ?_, ?_, ?_, ?_, ?_, ?_, ?_, ?_, ?_⟩ <;> rfl

end Sys2Proof.Machine
end

section
/-! What a command can answer (60_exceptions.md R174 to R176), said once for all 71: `exec_answers` names the possible
outcomes with what each leaves, and the statements about errors, writers and the invariant are read off them. -/

namespace Sys2Proof.Machine

/-! ## Stack commands and register commands -/

theorem command_cases (i : Instr) :
    (∃ e ∈ Spec.pushRows, e.1 = i) ∨ (∃ e ∈ Spec.popRows, e.1 = i) ∨
      i ∉ (Spec.pushRows ++ Spec.popRows).map (·.1) := by
  by_cases h : i ∈ (Spec.pushRows ++ Spec.popRows).map (·.1)
  · obtain ⟨e, he, hi⟩ := List.mem_map.mp h
    obtain hpush | hpop := List.mem_append.mp he
    · exact .inl ⟨e, hpush, hi⟩
    · exact .inr (.inl ⟨e, hpop, hi⟩)
  · exact .inr (.inr h)

/-- From `s` to `u` command `i` writes the RegisterFile alone, and of it a special-purpose register only as RESET or as
RFWR with its number. -/
structure WritesRegisters (i : Instr) (s u : State) : Prop where
  stk : u.stk = s.stk
  inputs : SameInputs s u
  sprs : ∀ n, u.spr n ≠ s.spr n → i = .reset ∨ ∃ e ∈ sprTable, e.2.1 = n ∧ i = .rfwr (BitVec.ofNat 8 e.1)

/-- An update that touches no special-purpose register either. -/
theorem SameBeside.writesRegisters {i : Instr} {s u : State} (h : SameBeside s u) : WritesRegisters i s u :=
  ⟨h.stk, h.inputs, fun n hn => absurd (h.sprs n) hn⟩

theorem SameBeside.putField (s : State) (f : SwField) (v : BitVec 64) : SameBeside s (s.putField f v) :=
  ⟨fun n => by simp, rfl, by simp [SameInputs]⟩

theorem legalCarrySelect_of_carryIn_none {s : State} {ci : BitVec 2} (h : s.carryIn ci = none) :
    legalCarrySelect ci = false := by
  by_cases hci : ci = 3#2
  · rw [hci]
    rfl
  · rw [s.carryIn_eq ci hci] at h
    cases h

theorem legalRegisterNumber_of_sprNumbered_none {f : BitVec 8} (h : sprNumbered f = none) :
    legalRegisterNumber f = false := by
  revert f
  decide

/-- F names the register of its row. -/
theorem sprTable_of_sprNumbered {f : BitVec 8} {n : Spr} (h : sprNumbered f = some n) :
    ∃ e ∈ sprTable, e.2.1 = n ∧ f = BitVec.ofNat 8 e.1 := by
  rw [sprNumbered_eq_table] at h
  obtain ⟨e, hfind, hn⟩ := Option.map_eq_some_iff.mp h
  have hnum : e.1 = f.toNat := by simpa using List.find?_some hfind
  exact ⟨e, List.mem_of_find?_eq_some hfind, hn, by rw [hnum, BitVec.ofNat_toNat, BitVec.setWidth_eq]⟩

theorem setSpr_writesRegisters (s : State) {f : BitVec 8} {n : Spr} (h : sprNumbered f = some n) (v : BitVec 64) :
    WritesRegisters (.rfwr f) s (s.setSpr n v) where
  stk := by simp
  inputs := by simp [SameInputs]
  sprs m hm := by
    by_cases hmn : m = n
    · obtain ⟨e, he, hreg, hf⟩ := sprTable_of_sprNumbered h
      exact .inr ⟨e, he, hreg.trans hmn.symm, by rw [hf]⟩
    · exact absurd (s.setSpr_spr_ne v hmn) hm

theorem setRf_writesRegisters (s : State) (rf : RegisterFile) : WritesRegisters .reset s (s.setRf rf) :=
  ⟨rfl, ⟨rfl, rfl, rfl, rfl⟩, fun _ _ => .inl rfl⟩

/-! ## The answers -/

/-- What executing `i` on `s` can answer. -/
inductive Answer (i : Instr) (s : State) : Result → Prop where
  /-- The command goes through and writes the RegisterFile at most. -/
  | writes {u : State} (h : WritesRegisters i s u) (q : BitVec 64) : Answer i s (finish u q)
  /-- The command raises an error of its own. -/
  | error {e : ErrorCode} (h : e ∈ Spec.ownErrors i) : Answer i s (raise e s)
  /-- The command is one of the forms that no word decodes to. -/
  | illegal (h : i.wellFormed = false) : Answer i s (raise .illegalCommand s)
  /-- A push goes through. -/
  | pushes {n : Nat} (hi : i ∈ Spec.pushRows.map (·.1)) (hn : n ≤ 8) (hroom : n - 1 ≤ s.stkPtr)
      (hlen : s.stkPtr < s.params.stkLen) : Answer i s (finish (s.pushed n) 0#64)
  /-- A pop goes through. -/
  | pops {n : Nat} (hi : i ∈ Spec.popRows.map (·.1)) (hn : n ≤ 8) (htop : s.stkPtr + n ≤ s.params.stkTop.toInt)
      (hlow : -1 ≤ s.stkPtr) (q : BitVec 64) : Answer i s (finish (s.popped n) q)
  /-- A push or pop meets an index outside the buffer. -/
  | noSuchByte (h : ¬BlockInv s) (k : Int) : Answer i s (.fault (.noSuchByte k))

section
variable {i : Instr} (s : State)

theorem Answer.output (q : BitVec 64) : Answer i s (finish s q) := .writes (SameBeside.refl s).writesRegisters q

theorem Answer.writeRegister (ra : Reg) (v : BitVec 64) : Answer i s (finish (s.setX ra v) 0#64) :=
  .writes (SameBeside.setX s ra v).writesRegisters _

theorem Answer.finishZN (ra : Reg) (r : BitVec 64) : Answer i s (finishZN ra r s) :=
  .writes ((SameBeside.setX s ra r).putZN r).writesRegisters _

theorem Answer.writeField (f : SwField) (v : BitVec 64) : Answer i s (finish (s.putField f v) 0#64) :=
  .writes (SameBeside.putField s f v).writesRegisters _

theorem Answer.selectField (f : SwField) (h : .invalidFieldValue ∈ Spec.ownErrors i) :
    Answer i s (selectField f s) := by
  unfold Machine.selectField
  split
  · exact .error h
  · exact .writeField s f s.d

theorem Answer.aluResult (ra : Reg) (c v : Bool) (r : BitVec 64) :
    Answer i s (finish ((s.setX ra r).putCVZN c v r) 0#64) :=
  .writes ((((SameBeside.setX s ra r).putFlag .c c).putFlag .v v).putZN r).writesRegisters _

theorem execAdd_answers (ra rb : Reg) (ci : BitVec 2) : Answer (.add ra rb ci) s (execAdd ra rb ci s) := by
  unfold execAdd
  split
  · next hnone => exact .illegal (legalCarrySelect_of_carryIn_none hnone)
  · exact .aluResult s ra _ _ _

theorem execSub_answers (ra rb : Reg) (ci : BitVec 2) : Answer (.sub ra rb ci) s (execSub ra rb ci s) := by
  unfold execSub
  split
  · next hnone => exact .illegal (legalCarrySelect_of_carryIn_none hnone)
  · exact .aluResult s ra _ _ _

theorem execCmp_answers (ra rb : Reg) : Answer i s (execCmp ra rb s) :=
  .writes ((((SameBeside.refl s).putFlag .c _).putFlag .v _).putFlag .z _).writesRegisters _

theorem execMuls_answers (ra rb : Reg) : Answer i s (execMuls ra rb s) := by
  unfold execMuls
  split
  · exact .finishZN s ra _
  · exact .writes (((SameBeside.setTwo s ra rb _ _).putFlag .z _).putFlag .n _).writesRegisters _

theorem execDivs_answers (ra rb : Reg) : Answer (.divs ra rb) s (execDivs ra rb s) := by
  unfold execDivs
  split
  · exact .error (by simp [Spec.ownErrors])
  · exact .writes ((((SameBeside.setTwo s ra rb _ _).putFlag .z _).putFlag .n _).putFlag .v _).writesRegisters _

theorem execRfrd_answers (f : BitVec 8) : Answer (.rfrd f) s (execRfrd f s) := by
  unfold execRfrd
  split
  · next hnone => exact .illegal (legalRegisterNumber_of_sprNumbered_none hnone)
  · exact .output s _

theorem execRfwr_answers (f : BitVec 8) : Answer (.rfwr f) s (execRfwr f s) := by
  unfold execRfwr
  split
  · next hnone => exact .illegal (legalRegisterNumber_of_sprNumbered_none hnone)
  · next hsome => exact .writes (setSpr_writesRegisters s hsome s.d) _

/-- The top bound is inside the buffer. -/
theorem BlockInv.stkPtr_lt {s : State} (h : BlockInv s) : s.stkPtr < s.params.stkLen := by
  obtain ⟨-, -, -, htop⟩ := h.params_legal
  exact h.ptr_high.trans_lt htop

theorem pushBytes_answers {e : Instr × Nat × Nat} (he : e ∈ Spec.pushRows) : Answer e.1 s (pushBytes e.2.2 s) := by
  obtain ⟨hn, -⟩ := pushRows_means e he
  have hown : ∀ e ∈ Spec.pushRows, ErrorCode.stackOverflow ∈ Spec.ownErrors e.1 := by decide
  obtain ⟨-, h⟩ | ⟨hroom, hlen, h⟩ | ⟨-, hlen, h⟩ := pushBytes_cases e.2.2 s <;> rw [h]
  · exact .error (hown e he)
  · exact .pushes (List.mem_map_of_mem he) hn hroom hlen
  · refine .noSuchByte (fun hinv => ?_) _
    have := hinv.stkPtr_lt
    omega

theorem popBytes_answers {e : Instr × Nat × Nat} (he : e ∈ Spec.popRows) : Answer e.1 s (popBytes e.2.2 s) := by
  obtain ⟨hn, -⟩ := popRows_means e he
  have hown : ∀ e ∈ Spec.popRows, ErrorCode.stackUnderflow ∈ Spec.ownErrors e.1 := by decide
  obtain ⟨-, h⟩ | ⟨htop, hlow, -, h⟩ | ⟨htop, hout, h⟩ := popBytes_cases e.2.2 s <;> rw [h]
  · exact .error (hown e he)
  · exact .pops (List.mem_map_of_mem he) hn htop hlow _
  · refine .noSuchByte (fun hinv => ?_) _
    have hlow := hinv.ptr_low
    obtain ⟨-, -, -, htop_lt⟩ := hinv.params_legal
    omega

end

/-- Every command's answer is one of these. -/
theorem exec_answers (i : Instr) (s : State) : Answer i s (exec i s) := by
  match i with
  | .add ra rb ci => exact execAdd_answers s ra rb ci
  | .sub ra rb ci => exact execSub_answers s ra rb ci
  | .and ra _ | .or ra _ | .xor ra _ | .shl ra | .shr ra | .sar ra => exact .finishZN s ra _
  | .cmp ra rb => exact execCmp_answers s ra rb
  | .muls ra rb => exact execMuls_answers s ra rb
  | .divs ra rb => exact execDivs_answers s ra rb
  | .sext ra _ | .setu8 ra | .setu16 ra | .setu32 ra | .setu64 ra | .seti8 ra | .seti16 ra | .seti32 ra
  | .seti64 ra => exact .writeRegister s ra _
  | .getu8 _ | .getu16 _ | .getu32 _ | .getu64 _ | .geti8 _ | .geti16 _ | .geti32 _ | .geti64 _ | .swrd
  | .getc | .getv | .getz | .getn | .getid | .getam | .getrs | .getps | .getcs | .getos | .getmm | .getsys
  | .getusr => exact .output s _
  | .setc | .setv | .setz | .setn | .setid | .clrc | .clrv | .clrz | .clrn | .clrid | .setsys | .setusr =>
    exact .writeField s _ _
  | .selam | .selrs | .selps | .selcs | .selos | .selmm => exact .selectField s _ (List.mem_singleton_self _)
  | .rfrd f => exact execRfrd_answers s f
  | .rfwr f => exact execRfwr_answers s f
  | .reset => exact .writes (setRf_writesRegisters s RegisterFile.reset) _
  | .push8 => exact pushBytes_answers s (e := (.push8, 0x60, 1)) (by decide)
  | .push16 => exact pushBytes_answers s (e := (.push16, 0x61, 2)) (by decide)
  | .push32 => exact pushBytes_answers s (e := (.push32, 0x62, 4)) (by decide)
  | .push64 => exact pushBytes_answers s (e := (.push64, 0x63, 8)) (by decide)
  | .pop8 => exact popBytes_answers s (e := (.pop8, 0x64, 1)) (by decide)
  | .pop16 => exact popBytes_answers s (e := (.pop16, 0x65, 2)) (by decide)
  | .pop32 => exact popBytes_answers s (e := (.pop32, 0x66, 4)) (by decide)
  | .pop64 => exact popBytes_answers s (e := (.pop64, 0x67, 8)) (by decide)

/-! ## Errors -/

/-- A command's own errors are the one fatal error of R169 and the recoverable ones. -/
theorem ownErrors_cases {i : Instr} {e : ErrorCode} (h : e ∈ Spec.ownErrors i) :
    e = .invalidFieldValue ∨ e ∈ [ErrorCode.divisionByZero, .stackOverflow, .stackUnderflow] := by
  unfold Spec.ownErrors at h
  split at h <;> simp_all

/-- A recoverable error is a next state that reports it. -/
theorem raise_of_recoverable {e : ErrorCode} (s : State)
    (h : e ∈ [ErrorCode.divisionByZero, .stackOverflow, .stackUnderflow]) : raise e s = .next (s.drive 0#64 e) :=
  raise_recoverable e s (by rintro rfl; simp at h) (by rintro rfl; simp at h)

/-- Settles O42: a word that does not decode raises the fatal IllegalCommand, and any other answers as `exec_answers`
says. -/
theorem outcomesFollowTheErrorClasses : Obligations.OutcomesFollowTheErrorClasses := by
  intro cmd s
  cases hdecode : decode cmd with
  | error e =>
    rw [runCommand_error cmd e s hdecode]
    exact rfl
  | ok i =>
    rw [runCommand_ok cmd i s hdecode]
    have hanswer := exec_answers i s
    generalize exec i s = o at hanswer ⊢
    cases hanswer with
    | writes _ _ | pushes _ _ _ _ | pops _ _ _ _ _ => exact Or.inl rfl
    | illegal _ => exact rfl
    | noSuchByte h _ => exact h
    | error h =>
      obtain rfl | hrecoverable := ownErrors_cases h
      · exact rfl
      · rw [raise_of_recoverable s hrecoverable]
        exact Or.inr ⟨hrecoverable, rfl⟩

/-- Settles O43: of the answers to a well-formed command only `error` leaves an error. -/
theorem commandsReportOnlyTheirOwnError : Obligations.CommandsReportOnlyTheirOwnError := by
  intro i s t hwf ht herr
  have hanswer := exec_answers i s
  generalize exec i s = o at hanswer ht
  cases hanswer with
  | writes _ _ | pushes _ _ _ _ | pops _ _ _ _ _ =>
    cases ht
    exact absurd rfl herr
  | illegal h => rw [hwf] at h; cases h
  | noSuchByte _ _ => cases ht
  | error h =>
    rw [blockAfter_raise, Option.some.injEq] at ht
    exact ht ▸ h

/-- Settles O44: under the invariant no byte is missing, and a well-formed command's one fatal error is a selector's. -/
theorem everyLegalCommandAnswers : Obligations.EveryLegalCommandAnswers := by
  intro i s hinv hwf
  have hanswer := exec_answers i s
  generalize exec i s = o at hanswer ⊢
  cases hanswer with
  | writes _ _ | pushes _ _ _ _ | pops _ _ _ _ _ => exact .inl ⟨_, rfl⟩
  | illegal h => rw [hwf] at h; cases h
  | noSuchByte h _ => exact absurd hinv h
  | error h =>
    obtain rfl | hrecoverable := ownErrors_cases h
    · exact .inr ⟨h, _, rfl⟩
    · exact .inl ⟨_, raise_of_recoverable s hrecoverable⟩

/-! ## Writers -/

/-- Settles O47: of the answers only `writes` changes a special-purpose register, and it says which commands do. -/
theorem specialRegistersHaveOnlyTheirWriters : Obligations.SpecialRegistersHaveOnlyTheirWriters := by
  intro i s t n ht hchanged
  have hanswer := exec_answers i s
  generalize exec i s = o at hanswer ht
  cases hanswer with
  | writes h q =>
    cases ht
    rw [State.drive_spr] at hchanged
    exact h.sprs n hchanged
  | pushes _ _ _ _ | pops _ _ _ _ _ =>
    cases ht
    exact absurd ((State.drive_spr _ _ _ n).trans (s.setStk_spr _ n)) hchanged
  | error _ | illegal _ =>
    rw [blockAfter_raise, Option.some.injEq] at ht
    exact absurd (ht ▸ s.drive_spr _ _ n) hchanged
  | noSuchByte _ _ => cases ht

/-- Settles O48: of the answers only `pushes` changes the buffer, and only `pushes` and `pops` the pointer. -/
theorem stackHasOnlyItsWriters : Obligations.StackHasOnlyItsWriters := by
  intro i s t ht
  have hanswer := exec_answers i s
  generalize exec i s = o at hanswer ht
  cases hanswer with
  | writes h q =>
    cases ht
    simp [h.stk]
  | pushes hi _ _ _ =>
    rw [List.map_append]
    exact ⟨fun _ => hi, fun _ => List.mem_append_left _ hi⟩
  | pops hi _ _ _ _ =>
    cases ht
    rw [List.map_append]
    exact ⟨fun hmem => absurd rfl hmem, fun _ => List.mem_append_right _ hi⟩
  | error _ | illegal _ =>
    rw [blockAfter_raise, Option.some.injEq] at ht
    subst ht
    exact ⟨fun hmem => absurd rfl hmem, fun hptr => absurd rfl hptr⟩
  | noSuchByte _ _ => cases ht

/-! ## Steps -/

/-- Settles O3: with a command at the port, and with one put there, a step decodes it and runs it. -/
theorem stepRunsTheDecodedCommand : Obligations.StepRunsTheDecodedCommand := by
  refine ⟨fun s p rest i hpending hdecode => ?_, fun s cmd i hpending hdecode => ?_⟩
  · rw [step_cons s p rest hpending, runCommand_ok p.cmd i _ hdecode]
    rfl
  · have hword : BitVec.ofNat 32 (cmd.toNat % 2 ^ 32) = cmd := by
      rw [Nat.mod_eq_of_lt cmd.isLt, BitVec.ofNat_toNat, BitVec.setWidth_eq]
    have hfetch : s.withFetchWord 32 cmd.toNat = { s with pending := [{ cmd := cmd, d := s.d, draw := s.draw }] } := by
      rw [State.withFetchWord, State.presentWord, hword, hpending]
    have haccept : (s.withFetchWord 32 cmd.toNat).accept { cmd := cmd, d := s.d, draw := s.draw } [] = s := by
      rw [hfetch, State.accept, ← hpending]
    rw [step_cons _ { cmd := cmd, d := s.d, draw := s.draw } [] (by rw [hfetch]), haccept,
      runCommand_ok cmd i s hdecode]

/-- Settles O4: with no command at the port a step answers the same state. -/
theorem nothingChangesWithoutACommand : Obligations.NothingChangesWithoutACommand := step_nil

end Sys2Proof.Machine
end

section
/-! The invariant of the block (10_state.md R45; 20_memory.md R49, R50): it holds at creation, every step keeps it, and
so no run leaves the buffer. -/

namespace Sys2Proof.Machine

/-! ## Creation (10_state.md R46) -/

/-- What a read answers after bytes are written one after another. -/
theorem memRead_memWriteAll (bytes : List Byte) (m : Memory) (k j : Nat) (h : Memory.wf m = true) :
    memRead (Memory.ofBytes.memWriteAll m k bytes) j =
      if hj : k ≤ j ∧ j - k < bytes.length then bytes[j - k] else memRead m j := by
  induction bytes generalizing m k with
  | nil => simp [Memory.ofBytes.memWriteAll]
  | cons b rest ih =>
    rw [Memory.ofBytes.memWriteAll, ih _ _ (memWrite_wf m k b h), memRead_memWrite m k j b h]
    by_cases hjk : j = k
    · subst hjk
      rw [dif_neg (by omega), if_pos rfl, dif_pos (by simp)]
      simp
    · by_cases hin : k + 1 ≤ j ∧ j - (k + 1) < rest.length
      · have hsucc : j - k = j - (k + 1) + 1 := by omega
        rw [dif_pos hin, dif_pos (by rw [List.length_cons]; omega)]
        simp [hsucc]
      · rw [dif_neg hin, if_neg hjk, dif_neg (by rw [List.length_cons]; omega)]

/-- Settles O53: the buffer is written byte by byte from index 0, and the pointer starts at the top bound. -/
theorem invariantHoldsAtEveryCreation : Obligations.InvariantHoldsAtEveryCreation := by
  intro p bytes hlegal hfits
  have ⟨_, _, htop_low, _⟩ := hlegal
  refine ⟨⟨hlegal, htop_low, le_rfl, Memory.ofBytes_wf bytes, Memory.ofBytes_within _ bytes hfits⟩,
    fun k hk => ?_⟩
  change memRead (Memory.ofBytes.memWriteAll [] 0 bytes) k = bytes[k]
  rw [memRead_memWriteAll bytes [] 0 k rfl, dif_pos ⟨Nat.zero_le k, hk⟩]
  rfl

/-- Settles O52: reset is creation with the default parameters and an empty STK_INIT. -/
theorem invariantHoldsAtReset : Obligations.InvariantHoldsAtReset :=
  (invariantHoldsAtEveryCreation Params.default [] (by decide) (by decide)).1

/-! ## Steps -/

section
variable {s : State}

/-- The invariant speaks of the Stack unit and the parameters alone. -/
theorem BlockInv.of_same {t : State} (h : BlockInv s) (hstk : t.stk = s.stk) (hparams : t.params = s.params) :
    BlockInv t := by
  have hptr : t.stkPtr = s.stkPtr := by rw [State.stkPtr, hstk, State.stkPtr]
  obtain ⟨hlegal, hlow, hhigh, hwf, hwithin⟩ := h
  exact ⟨hparams ▸ hlegal, hptr ▸ hlow, hptr ▸ hparams ▸ hhigh, hstk ▸ hwf, hstk ▸ hparams ▸ hwithin⟩

theorem BlockInv.drive (h : BlockInv s) (q : BitVec 64) (e : ErrorCode) : BlockInv (s.drive q e) :=
  h.of_same rfl rfl

theorem BlockInv.pushed (h : BlockInv s) {n : Nat} (hn : n ≤ 8) (hroom : n - 1 ≤ s.stkPtr) :
    BlockInv (s.pushed n) := by
  have hptr : (s.pushed n).stkPtr = s.stkPtr - n := stkPtr_sub s n hroom hn
  have hhigh := h.ptr_high
  have hlen : s.stkPtr < (s.pushed n).params.stkLen := h.stkPtr_lt
  refine ⟨h.params_legal, by omega, ?_, memWriteBytes_wf n _ _ _ h.mem_wf,
    memWriteBytes_within _ n _ _ _ h.mem_within (by omega)⟩
  rw [hptr]
  exact (Int.sub_le_self _ (by omega)).trans hhigh

theorem BlockInv.popped (h : BlockInv s) {n : Nat} (hn : n ≤ 8) (htop : s.stkPtr + n ≤ s.params.stkTop.toInt) :
    BlockInv (s.popped n) := by
  have hlow := h.ptr_low
  have hptr : (s.popped n).stkPtr = s.stkPtr + n := stkPtr_add s n hlow htop hn
  exact ⟨h.params_legal, by omega, hptr.trans_le htop, h.mem_wf, h.mem_within⟩

/-- Every command leaves a state, on an error too, that keeps the invariant and the parameters. -/
theorem exec_keeps_inv (i : Instr) (h : BlockInv s) :
    ∃ t, blockAfter (exec i s) = some t ∧ BlockInv t ∧ t.params = s.params := by
  have hanswer := exec_answers i s
  generalize exec i s = o at hanswer ⊢
  cases hanswer with
  | writes hu q =>
    obtain ⟨-, -, -, hparams⟩ := hu.inputs
    exact ⟨_, rfl, (h.of_same hu.stk hparams).drive q _, hparams⟩
  | pushes _ hn hroom _ => exact ⟨_, rfl, (h.pushed hn hroom).drive _ _, rfl⟩
  | pops _ hn htop _ q => exact ⟨_, rfl, (h.popped hn htop).drive q _, rfl⟩
  | error _ | illegal _ => exact ⟨_, blockAfter_raise _ s, h.drive _ _, rfl⟩
  | noSuchByte hbroken _ => exact absurd h hbroken

theorem runCommand_keeps_inv (cmd : BitVec 32) (h : BlockInv s) :
    ∃ t, blockAfter (runCommand cmd s) = some t ∧ BlockInv t ∧ t.params = s.params := by
  cases hdecode : decode cmd with
  | error e =>
    rw [runCommand_error cmd e s hdecode]
    exact ⟨_, rfl, h.drive _ _, rfl⟩
  | ok i =>
    rw [runCommand_ok cmd i s hdecode]
    exact exec_keeps_inv i h

end

/-- Settles O54: a step waits or runs a command, by `runCommand_keeps_inv`. -/
theorem everyStepKeepsTheInvariant : Obligations.EveryStepKeepsTheInvariant := by
  intro s h
  cases hpending : s.pending with
  | nil => exact ⟨s, by rw [step_nil s hpending]; rfl, h, rfl⟩
  | cons p rest =>
    rw [step_cons s p rest hpending]
    exact runCommand_keeps_inv p.cmd (h.of_same (s.accept_stk p rest) (s.accept_params p rest))

section
variable (M : Host.Core) (n : Nat) {s : M.State}

theorem run_of_next {t : M.State} (h : M.step s = .next t) : M.run (n + 1) s = M.run n t := by
  rw [Host.Core.run, h]

theorem run_of_fault {r : M.Fault} (h : M.step s = .fault r) : M.run (n + 1) s = .fault r := by
  rw [Host.Core.run, h]

theorem run_of_refused {r : M.Refusal} (h : M.step s = .refused r) : M.run (n + 1) s = .refused r := by
  rw [Host.Core.run, h]

end

/-- Settles O55: by induction on the run's length, each step by O54. -/
theorem noRunLeavesTheBuffer : Obligations.NoRunLeavesTheBuffer := by
  intro n
  induction n with
  | zero => exact fun s k _ => nofun
  | succ n ih =>
    intro s k h hrun
    obtain ⟨t, ht, hinv, -⟩ := everyStepKeepsTheInvariant s h
    cases hstep : step s with
    | next u =>
      rw [hstep] at ht
      cases ht
      exact ih t k hinv ((run_of_next core n hstep).symm.trans hrun)
    | fault r =>
      have hr : r = .noSuchByte k := Host.Outcome.fault.inj ((run_of_fault core n hstep).symm.trans hrun)
      rw [hstep, hr] at ht
      cases ht
    | refused r => exact absurd ((run_of_refused core n hstep).symm.trans hrun) nofun

end Sys2Proof.Machine
end

section
/-! The Stack unit as a stack of bytes (43_stack.md R154, R155; 20_memory.md R51, R52). -/

namespace Sys2Proof.Machine

section
variable {s t : State} {n : Nat}

theorem State.stackBytes_length (s : State) :
    s.stackBytes.length = (s.params.stkTop.toInt - s.stkPtr).toNat := by
  simp [State.stackBytes]

/-- Where `t` holds `n` more bytes than `s`, and those of `s` as `s` does, its bytes begin with the new ones. -/
theorem stackBytes_eq_append (htop : t.params.stkTop = s.params.stkTop) (hptr : t.stkPtr = s.stkPtr - n)
    (hlow : -1 ≤ t.stkPtr) (hhigh : s.stkPtr ≤ s.params.stkTop.toInt) {v : BitVec 64}
    (hnew : ∀ j < n, t.byteAt ((t.stkPtr + 1).toNat + j) = byteOf v j)
    (hold : ∀ j, t.byteAt ((s.stkPtr + 1).toNat + j) = s.byteAt ((s.stkPtr + 1).toNat + j)) :
    t.stackBytes = (List.range n).map (byteOf v) ++ s.stackBytes := by
  have hlength : (t.params.stkTop.toInt - t.stkPtr).toNat = n + (s.params.stkTop.toInt - s.stkPtr).toNat := by
    rw [htop]
    omega
  have hbase : (s.stkPtr + 1).toNat = (t.stkPtr + 1).toNat + n := by omega
  unfold State.stackBytes
  rw [hlength, List.range_add, List.map_append, List.map_map]
  congr 1
  · exact List.map_congr_left fun j hj => hnew j (List.mem_range.mp hj)
  · refine List.map_congr_left fun j _ => ?_
    rw [← hold j, hbase, Nat.add_assoc]
    rfl

/-- A push that fits puts its bytes in front of those held. -/
theorem pushBytes_refines (h : BlockInv s) (hn : n ≤ 8) :
    ∃ t, pushBytes n s = .next t ∧
      (if s.stackBytes.length + n ≤ (s.params.stkTop.toInt + 1).toNat then
        t.err = .noError ∧ t.stackBytes = (List.range n).map (byteOf s.d) ++ s.stackBytes
      else t.err = .stackOverflow ∧ t.stackBytes = s.stackBytes) := by
  have hlow := h.ptr_low
  have hhigh := h.ptr_high
  have hfits : s.stackBytes.length + n ≤ (s.params.stkTop.toInt + 1).toNat ↔ n - 1 ≤ s.stkPtr := by
    rw [s.stackBytes_length]
    omega
  simp only [hfits]
  split_ifs with hroom
  · obtain ⟨t, ⟨ht, -, herr⟩, hptr, hnew, hold, -, -, -, -, -, -, hparams⟩ :=
      pushBytes_spec s hn h.mem_wf hroom h.stkPtr_lt
    have hbase : (s.stkPtr - (n - 1)).toNat = (t.stkPtr + 1).toNat := by omega
    refine ⟨t, ht, herr,
      stackBytes_eq_append (by rw [hparams]) hptr (by omega) hhigh ?_ fun j => hold _ (.inr (by omega))⟩
    rwa [hbase] at hnew
  · exact ⟨_, pushBytes_overflow s n (by omega), rfl, rfl⟩

/-- A pop of bytes that are held takes them off. -/
theorem popBytes_refines (h : BlockInv s) (hn : n ≤ 8) :
    ∃ t, popBytes n s = .next t ∧
      (if n ≤ s.stackBytes.length then
        t.err = .noError ∧ s.stackBytes = (List.range n).map (byteOf t.q) ++ t.stackBytes
      else t.err = .stackUnderflow ∧ t.stackBytes = s.stackBytes) := by
  obtain ⟨⟨-, -, -, hlen⟩, hlow, hhigh, hwf, -⟩ := h
  have hheld : n ≤ s.stackBytes.length ↔ s.stkPtr + n ≤ s.params.stkTop.toInt := by
    rw [s.stackBytes_length]
    omega
  simp only [hheld]
  split_ifs with htop
  · obtain ⟨t, q, ⟨ht, hq, herr⟩, -, hread, hptr, hkeep, -, -, -, -, -, -, hparams⟩ :=
      popBytes_spec s hn htop hlow (by omega)
    refine ⟨t, ht, herr, stackBytes_eq_append (by rw [hparams]) (by omega) hlow (by rw [hparams]; omega)
      (fun j hj => ?_) fun j => (hkeep _).symm⟩
    rw [hq, hread j hj]
  · exact ⟨_, popBytes_underflow s n (by omega), rfl, rfl⟩

end

/-- Settles O40: every row is a push or a pop of its width, by `pushBytes_refines` and `popBytes_refines`. -/
theorem stackUnitRefinesAByteStack : Obligations.StackUnitRefinesAByteStack := by
  intro s h
  constructor <;> intro e he
  · obtain ⟨hn, -, hexec⟩ := pushRows_means e he
    rw [hexec]
    exact pushBytes_refines h hn
  · obtain ⟨hn, -, hexec⟩ := popRows_means e he
    rw [hexec]
    exact popBytes_refines h hn

/-- The low bytes of a number are its remainder. -/
theorem mod_eq_of_bytes (m : Nat) {x y : Nat} (h : ∀ j < m, x / 256 ^ j % 256 = y / 256 ^ j % 256) :
    x % 256 ^ m = y % 256 ^ m := by
  induction m with
  | zero => simp [Nat.mod_one]
  | succ m ih =>
    rw [pow_succ, Nat.mod_mul, Nat.mod_mul, ih fun j hj => h j (by omega), h m (by omega)]

/-- Settles O39: the bytes the pop reads are the low ones that the push stored from the new pointer up. -/
theorem popAfterPushReturnsTheLowBytes : Obligations.PopAfterPushReturnsTheLowBytes := by
  intro e he g hg hle s t d h ht herr
  obtain ⟨hn, -, hpush⟩ := pushRows_means e he
  obtain ⟨hm, -, hpop⟩ := popRows_means g hg
  generalize e.2.2 = n at *
  generalize g.2.2 = m at *
  rw [hpush] at ht
  have hroom : n - 1 ≤ s.stkPtr := by
    by_contra hover
    rw [pushBytes_overflow s n (by omega)] at ht
    cases ht
    cases herr
  have hhigh := h.ptr_high
  have hlen := h.stkPtr_lt
  obtain ⟨t', ⟨ht', -, -⟩, hptr, hnew, -, -, -, -, -, -, -, hparams⟩ :=
    pushBytes_spec s hn h.mem_wf hroom h.stkPtr_lt
  obtain rfl : t' = t := by rw [ht'] at ht; cases ht; rfl
  have hptr_d : ({ t' with d := d } : State).stkPtr = s.stkPtr - n := hptr
  have hparams_d : ({ t' with d := d } : State).params = s.params := hparams
  obtain ⟨u, q, ⟨hu, hq, herr_u⟩, hlt, hread, hptr_u, -⟩ := popBytes_spec { t' with d := d } hm
    (by rw [hptr_d, hparams_d]; omega) (by omega) (by rw [hptr_d, hparams_d]; omega)
  rw [hpop]
  refine ⟨u, hu, herr_u, ?_, by omega, fun hmn => ?_⟩
  · rw [hq, ← Nat.mod_eq_of_lt hlt]
    refine mod_eq_of_bytes m fun j hj => ?_
    have hbyte : byteOf q j = byteOf s.d j := by
      have hbase : (s.stkPtr - n + 1).toNat = (s.stkPtr - (n - 1)).toNat := by omega
      rw [hread j hj, ← hnew j (by omega), hptr_d, hbase]
      rfl
    simpa [byteOf] using congrArg BitVec.toNat hbyte
  · exact BitVec.eq_of_toInt_eq (show u.stkPtr = s.stkPtr by omega)

end Sys2Proof.Machine
end

section
/-! Two runs of one command (10_state.md R29 to R37; 30_encoding.md R71; 43_stack.md R153). `Alike` relates two states
that agree in the registers and in chosen bits of SW; each update keeps it, so each command that is neither a push nor a
pop does, and what the two states differ in reaches no result. -/

namespace Sys2Proof.Machine

/-! ## States alike in the RegisterFile -/

/-- The two states agree in every register, the bits of SW that `same` holds of, the draw and the parameters. -/
structure Alike (same : Nat → Prop) (s s' : State) : Prop where
  x : ∀ r, s'.x r = s.x r
  spr : ∀ n, s'.spr n = s.spr n
  bits : ∀ k < 32, same k → swBit k s' = swBit k s
  draw : s'.draw = s.draw
  params : s'.params = s.params

theorem getLsbD_eq_of_mod_eq {v v' : BitVec 64} {n : Nat} (h : v'.toNat % 2 ^ n = v.toNat % 2 ^ n) {i : Nat}
    (hi : i < n) : v'.getLsbD i = v.getLsbD i := by
  simpa [hi, BitVec.getLsbD] using congrArg (Nat.testBit · i) h

theorem sext_eq_of_mod_eq {v v' : BitVec 64} {n : Nat} (h : v'.toNat % 2 ^ n = v.toNat % 2 ^ n) :
    sext n v' = sext n v := by
  have hcut : v'.setWidth n = v.setWidth n := BitVec.eq_of_toNat_eq (by simpa using h)
  rw [sext, hcut, sext]

theorem zext_eq_of_mod_eq {v v' : BitVec 64} {n : Nat} (h : v'.toNat % 2 ^ n = v.toNat % 2 ^ n) :
    zext n v' = zext n v := by
  have hcut : v'.setWidth n = v.setWidth n := BitVec.eq_of_toNat_eq (by simpa using h)
  rw [zext, hcut, zext]

section
variable {same : Nat → Prop} {u u' : State} (h : Alike same u u')
include h

theorem Alike.drive (q q' : BitVec 64) (e : ErrorCode) : Alike same (u.drive q e) (u'.drive q' e) :=
  ⟨fun r => by simp [h.x], fun n => by simp [h.spr], h.bits, h.draw, h.params⟩

theorem Alike.setX (r : Reg) (v : BitVec 64) : Alike same (u.setX r v) (u'.setX r v) where
  x m := by rw [State.setX_x, State.setX_x, h.x]
  spr n := by simp [h.spr]
  bits k hk hs := by simpa [swBit] using h.bits k hk hs
  draw := by simp [h.draw]
  params := by simp [h.params]

theorem Alike.setTwo (ra rb : Reg) (va vb : BitVec 64) : Alike same (u.setTwo ra rb va vb) (u'.setTwo ra rb va vb) := by
  unfold State.setTwo
  rw [h.draw]
  split
  · exact (h.setX rb vb).setX ra va
  · exact (h.setX ra va).setX rb vb

theorem Alike.setSpr (n : Spr) {v v' : BitVec 64} (hv : v'.toNat % 2 ^ sprWidth n = v.toNat % 2 ^ sprWidth n) :
    Alike same (u.setSpr n v) (u'.setSpr n v') where
  x r := by simp [h.x]
  spr m := by
    by_cases hmn : m = n
    · rw [hmn, State.setSpr_spr_self, State.setSpr_spr_self, zext_eq_of_mod_eq hv]
    · rw [State.setSpr_spr_ne _ _ hmn, State.setSpr_spr_ne _ _ hmn, h.spr]
  bits k hk hs := by simpa [swBit] using h.bits k hk hs
  draw := by simp [h.draw]
  params := by simp [h.params]

theorem Alike.setRf (rf : RegisterFile) : Alike same (u.setRf rf) (u'.setRf rf) :=
  ⟨fun r => by cases r <;> rfl, fun n => by cases n <;> rfl, fun _ _ _ => rfl, h.draw, h.params⟩

theorem Alike.putField (f : SwField) {v v' : BitVec 64} (hv : v'.toNat % 2 ^ f.width = v.toNat % 2 ^ f.width) :
    Alike same (u.putField f v) (u'.putField f v') where
  x r := by simp [h.x]
  spr n := by simp [h.spr]
  bits k hk hs := by
    rw [swBit, swBit, State.putField_swBit _ f _ k hk, State.putField_swBit _ f _ k hk]
    split_ifs with hin
    · exact getLsbD_eq_of_mod_eq hv (by omega)
    · exact h.bits k hk hs
  draw := h.draw
  params := h.params

theorem Alike.putFlag (f : SwField) (b : Bool) : Alike same (u.putFlag f b) (u'.putFlag f b) := h.putField f rfl

theorem Alike.putZN (r : BitVec 64) : Alike same (u.putZN r) (u'.putZN r) := (h.putFlag .z _).putFlag .n _

theorem Alike.putCVZN (c v : Bool) (r : BitVec 64) : Alike same (u.putCVZN c v r) (u'.putCVZN c v r) :=
  ((h.putFlag .c c).putFlag .v v).putZN r

/-- The current width is read from bits 19 and 18 of SW alone. -/
theorem Alike.operandWidth (h19 : same 19) (h18 : same 18) : u'.operandWidth = u.operandWidth := by
  have hos : swBits 18 2 u' = swBits 18 2 u := by
    refine Nat.eq_of_testBit_eq fun i => ?_
    simp only [swBits, Nat.testBit_mod_two_pow, Nat.testBit_div_two_pow]
    match i with
    | 0 => simpa [swBit, BitVec.getLsbD] using h.bits 18 (by decide) h18
    | 1 => simpa [swBit, BitVec.getLsbD] using h.bits 19 (by decide) h19
    | i + 2 => simp
  rw [State.operandWidth_eq, State.operandWidth_eq, widthNow, hos, widthNow]

/-- The carry-in is read from bit 31 of SW alone. -/
theorem Alike.carryIn (h31 : same 31) (ci : BitVec 2) : u'.carryIn ci = u.carryIn ci := by
  by_cases hci : ci = 3#2
  · rw [hci, State.carryIn_illegal, State.carryIn_illegal]
  · rw [State.carryIn_eq _ ci hci, State.carryIn_eq _ ci hci, h.bits 31 (by decide) h31]

theorem Alike.borrowIn (cin : Bool) : u'.borrowIn cin = u.borrowIn cin := by
  rw [State.borrowIn, h.params, State.borrowIn]

/-- Of the RegisterFile nothing is left where every bit of SW agrees. -/
theorem Alike.rf_eq (hall : ∀ k, same k) : u'.rf = u.rf := by
  have hsw : u'.sw = u.sw := BitVec.eq_of_getLsbD_eq fun k hk => h.bits k hk (hall k)
  have hcut : ∀ {n : Nat} {a b : BitVec n}, n ≤ 64 → a.setWidth 64 = b.setWidth 64 → a = b := fun hn hab =>
    BitVec.eq_of_toNat_eq (by simpa only [BitVec.toNat_setWidth_of_le hn] using congrArg BitVec.toNat hab)
  have hx := h.x
  have hspr := h.spr
  obtain ⟨⟨⟩, _, _, _, _, _, _, _⟩ := u
  obtain ⟨⟨⟩, _, _, _, _, _, _, _⟩ := u'
  rw [RegisterFile.mk.injEq]
  exact ⟨hx .r0, hx .r1, hx .r2, hx .r3, hsw, hcut (by decide) (hspr .ptr0), hcut (by decide) (hspr .ptr1),
    hcut (by decide) (hspr .ofs0), hcut (by decide) (hspr .ofs1), hcut (by decide) (hspr .ix0),
    hcut (by decide) (hspr .ix1), hcut (by decide) (hspr .ixs0), hcut (by decide) (hspr .ixs1),
    hcut (by decide) (hspr .cnt0), hcut (by decide) (hspr .cnt1), hcut (by decide) (hspr .cnts0),
    hcut (by decide) (hspr .cnts1), hcut (by decide) (hspr .pc), hcut (by decide) (hspr .sb),
    hcut (by decide) (hspr .sp)⟩

end

/-! ## Answers alike -/

/-- The two answers are of one kind and leave states alike; `q` agrees too where `agree` holds. -/
inductive AnswersAlike (same : Nat → Prop) (agree : Prop) (s s' : State) : Result → Result → Prop where
  | finish {u u' : State} (h : Alike same u u') {q q' : BitVec 64} (hq : agree → q' = q) :
      AnswersAlike same agree s s' (finish u q) (finish u' q')
  | raise (e : ErrorCode) : AnswersAlike same agree s s' (raise e s) (raise e s')

theorem AnswersAlike.blockAfter {same : Nat → Prop} {agree : Prop} {s s' t : State} {o o' : Result}
    (ho : AnswersAlike same agree s s' o o') (hs : Alike same s s') (ht : blockAfter o = some t) :
    ∃ t', blockAfter o' = some t' ∧ Alike same t t' ∧ t'.err = t.err ∧ (agree → t'.q = t.q) := by
  cases ho with
  | finish h hq =>
    cases ht
    exact ⟨_, rfl, h.drive _ _ _, rfl, hq⟩
  | raise e =>
    rw [blockAfter_raise, Option.some.injEq] at ht
    subst ht
    exact ⟨_, blockAfter_raise e s', hs.drive _ _ _, rfl, fun _ => rfl⟩

section
variable {same : Nat → Prop} {agree : Prop} {s s' : State} (h : Alike same s s')
include h

theorem AnswersAlike.output {q q' : BitVec 64} (hq : agree → q' = q) :
    AnswersAlike same agree s s' (Machine.finish s q) (Machine.finish s' q') := .finish h hq

theorem AnswersAlike.writeRegister (ra : Reg) {v v' : BitVec 64} (hv : v' = v) :
    AnswersAlike same agree s s' (Machine.finish (s.setX ra v) 0#64) (Machine.finish (s'.setX ra v') 0#64) :=
  .finish (hv ▸ h.setX ra v) fun _ => rfl

theorem AnswersAlike.finishZN (ra : Reg) {r r' : BitVec 64} (hr : r' = r) :
    AnswersAlike same agree s s' (finishZN ra r s) (finishZN ra r' s') :=
  .finish (hr ▸ (h.setX ra r).putZN r) fun _ => rfl

theorem AnswersAlike.writeFlag (f : SwField) (b : Bool) :
    AnswersAlike same agree s s' (writeFlag f b s) (writeFlag f b s') := .finish (h.putFlag f b) fun _ => rfl

theorem AnswersAlike.writeByteField (f : SwField) (hd : s'.d.toNat % 2 ^ f.width = s.d.toNat % 2 ^ f.width) :
    AnswersAlike same agree s s' (writeByteField f s) (writeByteField f s') := .finish (h.putField f hd) fun _ => rfl

theorem AnswersAlike.selectField (f : SwField) (hd : s'.d = s.d) :
    AnswersAlike same agree s s' (selectField f s) (selectField f s') := by
  unfold Machine.selectField
  rw [hd]
  split
  · exact .raise .invalidFieldValue
  · exact .finish (h.putField f rfl) fun _ => rfl

theorem execAdd_alike (hobs : ∀ k ∈ [31, 19, 18], same k) (ra rb : Reg) (ci : BitVec 2) :
    AnswersAlike same agree s s' (execAdd ra rb ci s) (execAdd ra rb ci s') := by
  unfold execAdd
  rw [h.carryIn (hobs 31 (by decide)), h.x, h.x, h.operandWidth (hobs 19 (by decide)) (hobs 18 (by decide))]
  split
  · exact .raise .illegalCommand
  · exact .finish ((h.setX ra _).putCVZN _ _ _) fun _ => rfl

theorem execSub_alike (hobs : ∀ k ∈ [31, 19, 18], same k) (ra rb : Reg) (ci : BitVec 2) :
    AnswersAlike same agree s s' (execSub ra rb ci s) (execSub ra rb ci s') := by
  unfold execSub
  rw [h.carryIn (hobs 31 (by decide)), h.x, h.x, h.operandWidth (hobs 19 (by decide)) (hobs 18 (by decide))]
  split
  · exact .raise .illegalCommand
  · simp only [h.borrowIn]
    exact .finish ((h.setX ra _).putCVZN _ _ _) fun _ => rfl

theorem execCmp_alike (ra rb : Reg) : AnswersAlike same agree s s' (execCmp ra rb s) (execCmp ra rb s') := by
  unfold execCmp
  rw [h.x, h.x]
  exact .finish (((h.putFlag .c _).putFlag .v _).putFlag .z _) fun _ => rfl

theorem execSar_alike (hobs : ∀ k ∈ [31, 19, 18], same k) (hd : s'.d = s.d) (ra : Reg) :
    AnswersAlike same agree s s' (execSar ra s) (execSar ra s') := by
  unfold execSar State.shiftCount
  rw [h.x, h.params, h.operandWidth (hobs 19 (by decide)) (hobs 18 (by decide)), hd]
  exact .finishZN h ra rfl

theorem execMuls_alike (hobs : ∀ k ∈ [31, 19, 18], same k) (ra rb : Reg) :
    AnswersAlike same agree s s' (execMuls ra rb s) (execMuls ra rb s') := by
  unfold execMuls
  rw [h.x, h.x, h.params, h.operandWidth (hobs 19 (by decide)) (hobs 18 (by decide))]
  split
  · exact .finishZN h ra rfl
  · exact .finish (((h.setTwo ra rb _ _).putFlag .z _).putFlag .n _) fun _ => rfl

theorem execDivs_alike (ra rb : Reg) : AnswersAlike same agree s s' (execDivs ra rb s) (execDivs ra rb s') := by
  unfold execDivs
  rw [h.x, h.x]
  split
  · exact .raise .divisionByZero
  · exact .finish ((((h.setTwo ra rb _ _).putFlag .z _).putFlag .n _).putFlag .v _) fun _ => rfl

theorem execRfrd_alike (f : BitVec 8) : AnswersAlike same agree s s' (execRfrd f s) (execRfrd f s') := by
  unfold execRfrd
  split
  · exact .raise .illegalCommand
  · exact .output h fun _ => h.spr _

theorem execRfwr_alike (f : BitVec 8)
    (hd : s'.d.toNat % 2 ^ Spec.inputBits (.rfwr f) = s.d.toNat % 2 ^ Spec.inputBits (.rfwr f)) :
    AnswersAlike same agree s s' (execRfwr f s) (execRfwr f s') := by
  unfold execRfwr
  split
  · exact .raise .illegalCommand
  · next n hn =>
    have hwidth : ∀ e ∈ sprTable, Spec.inputBits (.rfwr (BitVec.ofNat 8 e.1)) = sprWidth e.2.1 := by decide
    obtain ⟨e, he, rfl, rfl⟩ := sprTable_of_sprNumbered hn
    rw [hwidth e he] at hd
    exact .finish (h.setSpr e.2.1 hd) fun _ => rfl

/-- A command that is neither a push nor a pop answers alike from two states alike, where these agree in C and
OperandSize and in the bits of the data input that the command takes; on `q` too, unless it reads the status word. -/
theorem exec_alike (i : Instr) (hi : i ∉ (Spec.pushRows ++ Spec.popRows).map (·.1))
    (hobs : ∀ k ∈ [31, 19, 18], same k)
    (hd : s'.d.toNat % 2 ^ Spec.inputBits i = s.d.toNat % 2 ^ Spec.inputBits i) :
    AnswersAlike same (i ∉ Spec.readsStatus ∨ s'.sw = s.sw) s s' (exec i s) (exec i s') := by
  have hwidth := h.operandWidth (hobs 19 (by decide)) (hobs 18 (by decide))
  have hfull (hbits : Spec.inputBits i = 64) : s'.d = s.d := by
    rw [hbits, Nat.mod_eq_of_lt s'.d.isLt, Nat.mod_eq_of_lt s.d.isLt] at hd
    exact BitVec.eq_of_toNat_eq hd
  match i with
  | .add ra rb ci => exact execAdd_alike h hobs ra rb ci
  | .sub ra rb ci => exact execSub_alike h hobs ra rb ci
  | .and ra rb | .or ra rb | .xor ra rb => exact .finishZN h ra (by rw [hwidth, h.x, h.x])
  | .cmp ra rb => exact execCmp_alike h ra rb
  | .shl ra | .shr ra =>
    exact .finishZN h ra (by rw [State.shiftCount, hwidth, h.x, hfull rfl, State.shiftCount])
  | .sar ra => exact execSar_alike h hobs (hfull rfl) ra
  | .muls ra rb => exact execMuls_alike h hobs ra rb
  | .divs ra rb => exact execDivs_alike h ra rb
  | .sext ra _ => exact .writeRegister h ra (by rw [h.x])
  | .setu8 ra | .setu16 ra | .setu32 ra | .seti8 ra | .seti16 ra | .seti32 ra =>
    exact .writeRegister h ra (sext_eq_of_mod_eq hd)
  | .setu64 ra | .seti64 ra => exact .writeRegister h ra (hfull rfl)
  | .getu8 ra | .getu16 ra | .getu32 ra | .getu64 ra | .geti8 ra | .geti16 ra | .geti32 ra | .geti64 ra =>
    exact .output h fun _ => by rw [h.x]
  | .swrd | .getc | .getv | .getz | .getn | .getid | .getam | .getrs | .getps | .getcs | .getos | .getmm | .getsys
  | .getusr => exact .output h fun hq => by rw [hq.resolve_left (absurd (by decide))]
  | .setc | .setv | .setz | .setn | .setid | .clrc | .clrv | .clrz | .clrn | .clrid => exact .writeFlag h _ _
  | .selam | .selrs | .selps | .selcs | .selos | .selmm => exact .selectField h _ (hfull rfl)
  | .setsys | .setusr => exact .writeByteField h _ hd
  | .rfrd f => exact execRfrd_alike h f
  | .rfwr f => exact execRfwr_alike h f hd
  | .reset => exact .finish (h.setRf RegisterFile.reset) fun _ => rfl
  | .push8 | .push16 | .push32 | .push64 | .pop8 | .pop16 | .pop32 | .pop64 => exact absurd (by decide) hi

end

/-! ## What a command leaves beside the RegisterFile -/

section
variable {i : Instr} {s t : State} (ht : blockAfter (exec i s) = some t)
include ht

/-- No command changes the inputs or the parameters. -/
theorem exec_sameInputs : SameInputs s t := by
  have hanswer := exec_answers i s
  generalize exec i s = o at hanswer ht
  cases hanswer with
  | writes h _ =>
    cases ht
    exact h.inputs
  | pushes _ _ _ _ | pops _ _ _ _ _ =>
    cases ht
    exact ⟨rfl, rfl, rfl, rfl⟩
  | error _ | illegal _ =>
    rw [blockAfter_raise, Option.some.injEq] at ht
    subst ht
    exact ⟨rfl, rfl, rfl, rfl⟩
  | noSuchByte _ _ => cases ht

theorem exec_stk (hi : i ∉ (Spec.pushRows ++ Spec.popRows).map (·.1)) : t.stk = s.stk := by
  obtain ⟨hmem, hptr⟩ := stackHasOnlyItsWriters i s t ht
  have hpush : i ∉ Spec.pushRows.map (·.1) := fun h => hi (by rw [List.map_append]; exact List.mem_append_left _ h)
  have hmem' := not_imp_comm.mp hmem hpush
  have hptr' := not_imp_comm.mp hptr hi
  obtain ⟨_, ⟨_, _⟩, _, _, _, _, _, _⟩ := s
  obtain ⟨_, ⟨_, _⟩, _, _, _, _, _, _⟩ := t
  rw [StackUnit.mk.injEq]
  exact ⟨hptr', hmem'⟩

end

/-- A push or pop reports no fatal error. -/
theorem stackCommand_next {e : Instr × Nat × Nat} (he : e ∈ Spec.pushRows ++ Spec.popRows) {s t : State}
    (ht : blockAfter (exec e.1 s) = some t) : exec e.1 s = .next t := by
  obtain hpush | hpop := List.mem_append.mp he
  · obtain ⟨-, -, hexec⟩ := pushRows_means e hpush
    rw [hexec] at ht ⊢
    obtain ⟨-, h⟩ | ⟨-, -, h⟩ | ⟨-, -, h⟩ := pushBytes_cases e.2.2 s <;> rw [h] at ht ⊢ <;> cases ht <;> rfl
  · obtain ⟨-, -, hexec⟩ := popRows_means e hpop
    rw [hexec] at ht ⊢
    obtain ⟨-, h⟩ | ⟨-, -, -, h⟩ | ⟨-, -, h⟩ := popBytes_cases e.2.2 s <;> rw [h] at ht ⊢ <;> cases ht <;> rfl

/-! ## Bits of SW that no command reads (O50) -/

/-- Settles O50: a stack command does not look at the RegisterFile, and any other answers alike from the two states. -/
theorem storageFieldsInfluenceNothing : Obligations.StorageFieldsInfluenceNothing := by
  intro i s t sw hobs ht
  by_cases hi : i ∈ (Spec.pushRows ++ Spec.popRows).map (·.1)
  · obtain ⟨e, he, rfl⟩ := List.mem_map.mp hi
    obtain ⟨hrf, hother⟩ :=
      stackCommandsIgnoreTheRegisterFile e he s t { s.rf with sw := sw } (stackCommand_next he ht)
    have ht' : ({ t with rf := { s.rf with sw := sw } } : State) = t.setSw sw := by rw [State.setSw, hrf]
    refine ⟨t.setSw sw, by rw [hother, ht']; rfl, rfl, fun r => by simp, fun n => by simp, rfl, fun _ => rfl,
      fun k _ hk => ?_⟩
    change sw.getLsbD k = t.rf.sw.getLsbD k
    rw [hrf, hk]
    rfl
  · have hs : Alike (fun k => sw.getLsbD k = swBit k s) s (s.setSw sw) :=
      ⟨fun r => by simp, fun n => by simp, fun k _ hk => hk, rfl, rfl⟩
    obtain ⟨t', ht', halike, herr, hq⟩ := (exec_alike hs i hi hobs rfl).blockAfter hs ht
    exact ⟨t', ht', herr, halike.x, halike.spr, (exec_stk ht' hi).trans (exec_stk ht hi).symm,
      fun hread => hq (.inl hread), halike.bits⟩

/-! ## Bits of the data input that a command does not take (O49) -/

/-- A push stores the low bytes of the data input alone. -/
theorem memWriteBytes_congr (n : Nat) (m : Memory) (k : Nat) {v v' : Nat} (h : v' % 256 ^ n = v % 256 ^ n) :
    memWriteBytes n m k v' = memWriteBytes n m k v := by
  induction n generalizing m k v v' with
  | zero => rfl
  | succ n ih =>
    rw [pow_succ, Nat.mul_comm, Nat.mod_mul, Nat.mod_mul] at h
    have hlow : BitVec.ofNat 8 v' = BitVec.ofNat 8 v := BitVec.eq_of_toNat_eq (by simp; omega)
    have hrest : v' / 256 % 256 ^ n = v / 256 % 256 ^ n := by omega
    rw [memWriteBytes, memWriteBytes, hlow, ih _ _ hrest]

theorem State.pushed_withInput (s : State) {n : Nat} {d : BitVec 64}
    (h : s.d.toNat % 2 ^ (8 * n) = d.toNat % 2 ^ (8 * n)) :
    ({ s with d := d } : State).pushed n = { s.pushed n with d := d } := by
  rw [pow_mul, show 2 ^ 8 = 256 from rfl] at h
  have hmem := memWriteBytes_congr n s.stk.mem (s.stkPtr - (n - 1)).toNat h
  unfold State.pushed State.setStk
  rw [hmem]
  rfl

/-- Two states of runs that differ in the data input, equal in all else. -/
theorem State.eq_withInput {s t t' : State} (hrf : t'.rf = t.rf) (hstk : t'.stk = t.stk) (hq : t'.q = t.q)
    (herr : t'.err = t.err) (hinputs : SameInputs s t) {d : BitVec 64} (hinputs' : SameInputs { s with d := d } t') :
    t' = { t with d := d } := by
  obtain ⟨-, hdraw, hpending, hparams⟩ := hinputs
  obtain ⟨hd', hdraw', hpending', hparams'⟩ := hinputs'
  obtain ⟨_, _, _, _, _, _, _, _⟩ := t'
  rw [State.mk.injEq]
  exact ⟨hrf, hstk, hq, herr, hd', hdraw'.trans hdraw.symm, hpending'.trans hpending.symm, hparams'.trans hparams.symm⟩

/-- Settles O49: a push stores the bits it takes, a pop takes none, and any other command answers alike. -/
theorem untakenInputBitsAreIgnored : Obligations.UntakenInputBitsAreIgnored := by
  intro i s t d _ hd ht
  obtain ⟨e, he, rfl⟩ | ⟨e, he, rfl⟩ | hi := command_cases i
  · obtain ⟨-, -, hexec⟩ := pushRows_means e he
    have hbits : ∀ e ∈ Spec.pushRows, Spec.inputBits e.1 = 8 * e.2.2 := by decide
    rw [hbits e he] at hd
    rw [hexec] at ht ⊢
    obtain ⟨hover, h⟩ | ⟨hroom, hlen, h⟩ | ⟨-, -, h⟩ := pushBytes_cases e.2.2 s <;> rw [h] at ht <;> cases ht
    · rw [pushBytes_overflow { s with d := d } _ hover]
      rfl
    · rw [pushBytes_stores { s with d := d } _ hroom hlen, s.pushed_withInput hd]
      rfl
  · obtain ⟨-, -, hexec⟩ := popRows_means e he
    rw [hexec] at ht ⊢
    obtain ⟨hunder, h⟩ | ⟨htop, hlow, hlen, h⟩ | ⟨-, -, h⟩ := popBytes_cases e.2.2 s <;> rw [h] at ht <;> cases ht
    · rw [popBytes_underflow { s with d := d } _ hunder]
      rfl
    · rw [popBytes_reads { s with d := d } _ htop hlow hlen]
      rfl
  · have hs : Alike (fun _ => True) s { s with d := d } :=
      ⟨fun r => by cases r <;> rfl, fun n => by cases n <;> rfl, fun _ _ _ => rfl, rfl, rfl⟩
    obtain ⟨t', ht', halike, herr, hq⟩ := (exec_alike hs i hi (fun _ _ => trivial) hd.symm).blockAfter hs ht
    have hstk : t'.stk = t.stk := (exec_stk ht' hi).trans (exec_stk ht hi).symm
    rw [ht', State.eq_withInput (halike.rf_eq fun _ => trivial) hstk (hq (.inr rfl)) herr (exec_sameInputs ht)
      (exec_sameInputs ht')]

/-! ## Bytes at and below the pointer (O51) -/

section
variable {s s' : State} (hs : Spec.AlikeAbovePointer s s')
include hs

theorem alikeAbovePointer_drive (q : BitVec 64) (e : ErrorCode) :
    Spec.AlikeAbovePointer (s.drive q e) (s'.drive q e) := by
  obtain ⟨hrf, hptr, -, -, hd, hdraw, hpending, hparams, hbytes⟩ := hs
  exact ⟨hrf, hptr, rfl, rfl, hd, hdraw, hpending, hparams, hbytes⟩

theorem alikeAbovePointer_accept (p : PortInput) (rest : List PortInput) :
    Spec.AlikeAbovePointer (s.accept p rest) (s'.accept p rest) := by
  obtain ⟨hrf, hptr, hq, herr, -, -, -, hparams, hbytes⟩ := hs
  exact ⟨hrf, hptr, hq, herr, rfl, rfl, rfl, hparams, hbytes⟩

theorem stkPtr_eq_of_alikeAbovePointer : s'.stkPtr = s.stkPtr := by
  obtain ⟨-, hptr, -⟩ := hs
  rw [State.stkPtr, hptr, State.stkPtr]

/-- A push covers the same indices with the same bytes. -/
theorem alikeAbovePointer_pushed (h : BlockInv s) (h' : BlockInv s') {n : Nat} (hn : n ≤ 8)
    (hroom : n - 1 ≤ s.stkPtr) : Spec.AlikeAbovePointer (s.pushed n) (s'.pushed n) := by
  have hptr' := stkPtr_eq_of_alikeAbovePointer hs
  obtain ⟨hrf, hptr, hq, herr, hd, hdraw, hpending, hparams, hbytes⟩ := hs
  refine ⟨hrf, congrArg (· - BitVec.ofNat 32 n) hptr, hq, herr, hd, hdraw, hpending, hparams, fun k hk => ?_⟩
  have hlow : s.stkPtr - n < k := (stkPtr_sub s n hroom hn).symm.trans_lt hk
  rw [State.pushed_byteAt _ n h.mem_wf, State.pushed_byteAt _ n h'.mem_wf, hptr', hd]
  split_ifs with hin
  · rfl
  · exact hbytes k (by omega)

/-- A pop reads bytes above the pointer and moves it up. -/
theorem alikeAbovePointer_popped (h : BlockInv s) {n : Nat} (hn : n ≤ 8)
    (htop : s.stkPtr + n ≤ s.params.stkTop.toInt) : Spec.AlikeAbovePointer (s.popped n) (s'.popped n) := by
  obtain ⟨hrf, hptr, hq, herr, hd, hdraw, hpending, hparams, hbytes⟩ := hs
  refine ⟨hrf, congrArg (· + BitVec.ofNat 32 n) hptr, hq, herr, hd, hdraw, hpending, hparams, fun k hk => hbytes k ?_⟩
  have hraised : s.stkPtr + n < k := (stkPtr_add s n h.ptr_low htop hn).symm.trans_lt hk
  omega

theorem poppedValue_eq_of_alikeAbovePointer (h : BlockInv s) (n : Nat) : s'.poppedValue n = s.poppedValue n := by
  have hlow := h.ptr_low
  have hptr := stkPtr_eq_of_alikeAbovePointer hs
  obtain ⟨-, -, -, -, -, -, -, -, hbytes⟩ := hs
  rw [State.poppedValue, hptr]
  exact memReadBytes_congr n _ _ _ fun j hj _ => hbytes j (by omega)

theorem params_eq_of_alikeAbovePointer : s'.params = s.params := by
  obtain ⟨-, -, -, -, -, -, -, hparams, -⟩ := hs
  exact hparams

theorem pushBytes_alikeAbovePointer (h : BlockInv s) (h' : BlockInv s') {n : Nat} (hn : n ≤ 8) :
    ∃ t t', blockAfter (pushBytes n s) = some t ∧ blockAfter (pushBytes n s') = some t' ∧
      Spec.AlikeAbovePointer t t' := by
  have hptr := stkPtr_eq_of_alikeAbovePointer hs
  by_cases hroom : n - 1 ≤ s.stkPtr
  · rw [pushBytes_stores s n hroom h.stkPtr_lt, pushBytes_stores s' n (hptr ▸ hroom) h'.stkPtr_lt]
    exact ⟨_, _, rfl, rfl, alikeAbovePointer_drive (alikeAbovePointer_pushed hs h h' hn hroom) _ _⟩
  · rw [pushBytes_overflow s n (by omega), pushBytes_overflow s' n (by omega)]
    exact ⟨_, _, rfl, rfl, alikeAbovePointer_drive hs _ _⟩

theorem popBytes_alikeAbovePointer (h : BlockInv s) (h' : BlockInv s') {n : Nat} (hn : n ≤ 8) :
    ∃ t t', blockAfter (popBytes n s) = some t ∧ blockAfter (popBytes n s') = some t' ∧
      Spec.AlikeAbovePointer t t' := by
  have hptr := stkPtr_eq_of_alikeAbovePointer hs
  have hparams := params_eq_of_alikeAbovePointer hs
  obtain ⟨-, -, -, hlen⟩ := h.params_legal
  by_cases htop : s.stkPtr + n ≤ s.params.stkTop.toInt
  · rw [popBytes_reads s n htop h.ptr_low (by omega),
      popBytes_reads s' n (by rw [hptr, hparams]; exact htop) h'.ptr_low (by rw [hptr, hparams]; omega),
      poppedValue_eq_of_alikeAbovePointer hs h]
    exact ⟨_, _, rfl, rfl, alikeAbovePointer_drive (alikeAbovePointer_popped hs h hn htop) _ _⟩
  · rw [popBytes_underflow s n (by omega), popBytes_underflow s' n (by rw [hptr, hparams]; omega)]
    exact ⟨_, _, rfl, rfl, alikeAbovePointer_drive hs _ _⟩

/-- A command that is neither a push nor a pop does not look at the buffer at all. -/
theorem registerCommand_alikeAbovePointer (h : BlockInv s) {i : Instr}
    (hi : i ∉ (Spec.pushRows ++ Spec.popRows).map (·.1)) :
    ∃ t t', blockAfter (exec i s) = some t ∧ blockAfter (exec i s') = some t' ∧ Spec.AlikeAbovePointer t t' := by
  obtain ⟨t, ht, -⟩ := exec_keeps_inv i h
  obtain ⟨hrf, hptr, -, -, hd, hdraw, hpending, hparams, hbytes⟩ := hs
  have hsw : s'.sw = s.sw := by rw [State.sw, hrf, State.sw]
  have halike_s : Alike (fun _ => True) s s' :=
    ⟨fun r => by simp only [State.x, hrf], fun n => by simp only [State.spr, hrf],
      fun k _ _ => by rw [swBit, hsw, swBit], hdraw, hparams⟩
  obtain ⟨t', ht', halike, herr, hq⟩ :=
    (exec_alike halike_s i hi (fun _ _ => trivial) (by rw [hd])).blockAfter halike_s ht
  obtain ⟨hd_t, -, hpending_t, -⟩ := exec_sameInputs ht
  obtain ⟨hd_t', -, hpending_t', -⟩ := exec_sameInputs ht'
  have hstk := exec_stk ht hi
  have hstk' := exec_stk ht' hi
  refine ⟨t, t', ht, ht', halike.rf_eq fun _ => trivial, by rw [hstk, hstk', hptr], hq (.inr hsw), herr,
    by rw [hd_t', hd, hd_t], halike.draw, by rw [hpending_t', hpending, hpending_t], halike.params, fun k hk => ?_⟩
  rw [State.stkPtr, hstk] at hk
  rw [State.byteAt, hstk', State.byteAt, hstk]
  exact hbytes k hk

theorem exec_alikeAbovePointer (h : BlockInv s) (h' : BlockInv s') (i : Instr) :
    ∃ t t', blockAfter (exec i s) = some t ∧ blockAfter (exec i s') = some t' ∧ Spec.AlikeAbovePointer t t' := by
  obtain ⟨e, he, rfl⟩ | ⟨e, he, rfl⟩ | hi := command_cases i
  · obtain ⟨hn, -, hexec⟩ := pushRows_means e he
    rw [hexec, hexec]
    exact pushBytes_alikeAbovePointer hs h h' hn
  · obtain ⟨hn, -, hexec⟩ := popRows_means e he
    rw [hexec, hexec]
    exact popBytes_alikeAbovePointer hs h h' hn
  · exact registerCommand_alikeAbovePointer hs h hi

end

/-- Settles O51: a step takes the same inputs in both runs, and the command keeps the relation. -/
theorem bytesBelowThePointerNeverShow : Obligations.BytesBelowThePointerNeverShow := by
  intro s s' h h' hs
  have hpending : s'.pending = s.pending := by
    obtain ⟨-, -, -, -, -, -, hpending, -⟩ := hs
    exact hpending
  cases hp : s.pending with
  | nil =>
    rw [step_nil s hp, step_nil s' (hpending.trans hp)]
    exact ⟨s, s', rfl, rfl, hs⟩
  | cons p rest =>
    rw [step_cons s p rest hp, step_cons s' p rest (hpending.trans hp)]
    have hport := alikeAbovePointer_accept hs p rest
    cases hdecode : decode p.cmd with
    | error e =>
      rw [runCommand_error _ e _ hdecode, runCommand_error _ e _ hdecode]
      exact ⟨_, _, rfl, rfl, alikeAbovePointer_drive hport _ _⟩
    | ok i =>
      rw [runCommand_ok _ i _ hdecode, runCommand_ok _ i _ hdecode]
      exact exec_alikeAbovePointer hport (h.of_same rfl rfl) (h'.of_same rfl rfl) i

end Sys2Proof.Machine
end

section
/-! Laws of the status word and ALU commands that follow from the commands' rules: a field reads back as written (R79,
R95), CMP is an order (41_alu.md R131), C and V at the current width (R130), SAR as a floor (R126), and the laws of
product and quotient (R132, R133). Last the forms that no word decodes to. -/

namespace Sys2Proof.Machine

/-! ## Status word -/

/-- Settles O16: the word is driven as a number of 64 bits. -/
theorem statusReadDrivesTheWholeWord : Obligations.StatusReadDrivesTheWholeWord :=
  ⟨rfl, fun s => ⟨_, by rw [BitVec.ofNat_toNat]; exact .of_finish s _, .drive s _ _⟩⟩

theorem SwField.lo_injective {f g : SwField} (h : f.lo = g.lo) : f = g := by
  cases f <;> cases g <;> first | rfl | cases h

section
variable {s t : State} {f g : SwField} (d : BitVec 64)

/-- A flag written is read back, whatever the data input then is. -/
theorem readField_of_writeFlag (hf : f.width = 1) (hg : g.width = 1) (hlo : f.lo = g.lo) {b : Bool}
    (ht : writeFlag f b s = .next t) :
    ∃ u, readField g { t with d := d } = .next u ∧ u.q = if b then 1#64 else 0#64 := by
  obtain ⟨t', ⟨ht', -, -⟩, hbit, -⟩ := writeFlag_spec s hf b
  obtain rfl : t' = t := Host.Outcome.next.inj (ht'.symm.trans ht)
  refine ⟨_, rfl, (swGet_eq_swBit { t' with d := d } hg).trans ?_⟩
  rw [← hlo, ← hbit]
  rfl

/-- A value selected is read back, whatever the data input then is. -/
theorem readField_of_selectField (hlo : f.lo = g.lo) (ht : selectField f s = .next t) :
    ∃ u, readField g { t with d := d } = .next u ∧ u.q = s.d := by
  obtain rfl := SwField.lo_injective hlo
  by_cases hrange : s.d.toNat ≤ 2 ^ f.width - 1
  · obtain ⟨t', ⟨ht', -, -⟩, hbits, -⟩ := selectField_spec_in_range s f hrange
    obtain rfl : t' = t := Host.Outcome.next.inj (ht'.symm.trans ht)
    refine ⟨_, rfl, (swGet_eq_swBits { t' with d := d } f).trans ?_⟩
    change BitVec.ofNat 64 (swBits f.lo f.width t') = s.d
    rw [hbits, BitVec.ofNat_toNat, BitVec.setWidth_eq]
  · rw [selectField_out_of_range f s (by omega)] at ht
    cases ht

end

/-- Settles O17: the rows name one field of SW, read back by `readField_of_writeFlag` and `readField_of_selectField`. -/
theorem statusFieldsReadBackAsWritten : Obligations.StatusFieldsReadBackAsWritten := by
  refine ⟨fun e he g hg hlo s t d ht => ?_, fun e he g hg hlo s t d ht => ?_, fun e he g hg hlo s t d ht => ?_⟩
  · obtain ⟨f, hf, hflo, -, hexec⟩ := setFlagRows_means e he
    obtain ⟨f', hf', hflo', -, hexec'⟩ := getFlagRows_means g hg
    rw [hexec] at ht
    rw [hexec']
    exact readField_of_writeFlag d hf hf' (by omega) ht
  · obtain ⟨f, hf, hflo, -, hexec⟩ := clearFlagRows_means e he
    obtain ⟨f', hf', hflo', -, hexec'⟩ := getFlagRows_means g hg
    rw [hexec] at ht
    rw [hexec']
    exact readField_of_writeFlag d hf hf' (by omega) ht
  · obtain ⟨f, hflo, -, -, -, hexec⟩ := selectRows_means e he
    obtain ⟨f', hflo', -, -, hexec'⟩ := getFieldRows_means g hg
    rw [hexec] at ht
    rw [hexec']
    exact readField_of_selectField d (by omega) ht

/-! ## Canonical values (00_scope.md R13) -/

section
variable {n : Nat} {a b : BitVec 64}

/-- An extension from `n` bits is, as a signed number, the low `n` bits that it extends. -/
theorem toInt_of_isSext (hpos : 0 < n) (hle : n ≤ 64) (h : IsSext n a b) : (a.setWidth n).toInt = b.toInt := by
  rw [h.eq hpos hle, sext, BitVec.toInt_signExtend_of_le hle]

/-- Such values are in the same order as their low bits, read unsigned too. -/
theorem toNat_le_iff_of_isSext (hpos : 0 < n) (hle : n ≤ 64) (ha : IsSext n a a) (hb : IsSext n b b) :
    (b.setWidth n).toNat ≤ (a.setWidth n).toNat ↔ b.toNat ≤ a.toNat := by
  have haint := toInt_of_isSext hpos hle ha
  have hbint := toInt_of_isSext hpos hle hb
  have := (a.setWidth n).isLt
  have := (b.setWidth n).isLt
  have := a.isLt
  have := b.isLt
  simp only [BitVec.toInt_eq_toNat_cond] at haint hbint
  generalize 2 ^ n = p at *
  split_ifs at haint hbint <;> omega

/-- R123's V is the signed order. -/
theorem cmpOverflow_eq_toInt_le (a b : BitVec 64) :
    ((!a.msb && b.msb) || (a.msb == b.msb && decide (b.toNat ≤ a.toNat))) = decide (b.toInt ≤ a.toInt) := by
  have := a.isLt
  have := b.isLt
  rw [BitVec.toInt_eq_msb_cond, BitVec.toInt_eq_msb_cond]
  cases a.msb <;> cases b.msb <;> simp <;> omega

end

/-- Settles O22: C and V are the two orders, and a canonical value has the order of its low bits. -/
theorem compareIsTheOrderAtEveryCanonicalWidth : Obligations.CompareIsTheOrderAtEveryCanonicalWidth := by
  intro ra rb s
  obtain ⟨-, t, ⟨ht, -, -⟩, hc, hv, -⟩ := compareSetsItsThreeFlagsAlone ra rb s
  rw [cmpOverflow_eq_toInt_le] at hv
  refine ⟨t, ht, hv, hc, fun n hn ha hb => ?_⟩
  have hwidth : ∀ n ∈ [8, 16, 32, 64], 0 < n ∧ n ≤ 64 := by decide
  obtain ⟨hpos, hle⟩ := hwidth n hn
  have horder := toNat_le_iff_of_isSext hpos hle ha hb
  rw [toInt_of_isSext hpos hle ha, toInt_of_isSext hpos hle hb, decide_eq_decide.mpr horder]
  exact ⟨hv, hc⟩

/-! ## Carry and overflow at the current width (R130) -/

section
variable {w : Nat} {a b v r : BitVec 64} {c : Nat}

theorem toInt_bounds_of_isSext (hpos : 0 < w) (hle : w ≤ 64) (h : IsSext w v r) :
    -2 ^ (w - 1) ≤ r.toInt ∧ r.toInt < 2 ^ (w - 1) :=
  toInt_of_isSext hpos hle h ▸ ⟨BitVec.le_toInt _, BitVec.toInt_lt⟩

theorem two_pow_pred_add_self (hpos : 0 < w) : (2 : Int) ^ (w - 1) + 2 ^ (w - 1) = 2 ^ w := by
  exact_mod_cast Nat.two_pow_pred_add_two_pow_pred hpos

/-- A result extended from `w` bits is the true one, or misses it by 2^w. -/
theorem toInt_of_isSext_wrapped (hpos : 0 < w) (hle : w ≤ 64) (hr : IsSext w v r) {x : Int}
    (hx : (v.toNat : Int) = x % 2 ^ 64) (hlow : -2 ^ w ≤ x) (hhigh : x < 2 ^ w) :
    r.toInt = x ∨ r.toInt = x + 2 ^ w ∨ r.toInt = x - 2 ^ w := by
  obtain ⟨hrlow, hrhigh⟩ := toInt_bounds_of_isSext hpos hle hr
  have hhalf := two_pow_pred_add_self hpos
  have hmod : r.toInt ≡ x [ZMOD 2 ^ w] := by
    have hdvd : (2 : Int) ^ w ∣ 2 ^ 64 := pow_dvd_pow 2 hle
    rw [← toInt_of_isSext hpos hle hr, BitVec.toInt_setWidth, hx]
    exact (Int.bmod_emod (m := 2 ^ w)).trans (Int.emod_emod_of_dvd x hdvd)
  obtain ⟨k, hk⟩ := hmod.symm.dvd
  have hkey : -2 < k ∧ k < 2 := by constructor <;> nlinarith
  obtain ⟨hk1, hk2⟩ := hkey
  interval_cases k <;> omega

/-- The two forms of a canonical value: its low bits, or these below ones. -/
theorem toNat_of_isSext_cases (hpos : 0 < w) (hle : w ≤ 64) (h : IsSext w a a) :
    (2 * (a.toNat % 2 ^ w) < 2 ^ w ∧ a.toNat = a.toNat % 2 ^ w) ∨
    (2 ^ w ≤ 2 * (a.toNat % 2 ^ w) ∧ a.toNat + 2 ^ w = a.toNat % 2 ^ w + 2 ^ 64) := by
  have hint := toInt_of_isSext hpos hle h
  have := a.isLt
  have := Nat.mod_lt a.toNat (Nat.two_pow_pos w)
  simp only [BitVec.toInt_eq_toNat_cond, BitVec.toNat_setWidth] at hint
  generalize 2 ^ w = p at *
  split_ifs at hint <;> omega

/-- ADD's V is the overflow of the `w`-bit sum. -/
theorem addOverflow_at_width (hpos : 0 < w) (hle : w ≤ 64) (ha : IsSext w a a) (hb : IsSext w b b) (hc : c ≤ 1)
    (hv : v.toNat = (a.toNat + b.toNat + c) % 2 ^ 64) (hr : IsSext w v r) :
    (a.msb == b.msb && r.msb != a.msb) =
      decide (¬(-2 ^ (w - 1) ≤ a.toInt + b.toInt + c ∧ a.toInt + b.toInt + c < 2 ^ (w - 1))) := by
  obtain ⟨halow, hahigh⟩ := toInt_bounds_of_isSext hpos hle ha
  obtain ⟨hblow, hbhigh⟩ := toInt_bounds_of_isSext hpos hle hb
  obtain ⟨hrlow, hrhigh⟩ := toInt_bounds_of_isSext hpos hle hr
  have hhalf := two_pow_pred_add_self hpos
  have hsum : (v.toNat : Int) = (a.toInt + b.toInt + c) % 2 ^ 64 := by
    rw [BitVec.toInt_eq_toNat_cond, BitVec.toInt_eq_toNat_cond]
    split_ifs <;> omega
  have hwrap := toInt_of_isSext_wrapped hpos hle hr hsum (by omega) (by omega)
  rw [BitVec.msb_eq_toInt, BitVec.msb_eq_toInt, BitVec.msb_eq_toInt, Bool.eq_iff_iff]
  simp only [Bool.and_eq_true, beq_iff_eq, bne_iff_ne, ne_eq, decide_eq_decide, decide_eq_true_eq]
  generalize (2 : Int) ^ w = p at *
  generalize (2 : Int) ^ (w - 1) = h at *
  omega

/-- ADD's C is the carry out of the low `w` bits, but for the operand of ones with a carry-in. -/
theorem addCarry_at_width (hpos : 0 < w) (hle : w ≤ 64) (ha : IsSext w a a) (hb : IsSext w b b)
    (hc : c ≤ 1) (hv : v.toNat = (a.toNat + b.toNat + c) % 2 ^ 64) :
    decide (v.toNat < a.toNat) = if c = 1 ∧ b = 0xFFFFFFFFFFFFFFFF#64 then false
      else decide (2 ^ w ≤ a.toNat % 2 ^ w + b.toNat % 2 ^ w + c) := by
  have hones : b = 0xFFFFFFFFFFFFFFFF#64 ↔ b.toNat = 2 ^ 64 - 1 := by simp [← BitVec.toNat_inj]
  have hhalf := Nat.two_pow_pred_add_two_pow_pred hpos
  have hwrap : v.toNat = a.toNat + b.toNat + c ∨ v.toNat + 2 ^ 64 = a.toNat + b.toNat + c := by omega
  have hpow : 2 ^ w ≤ 2 ^ 64 := Nat.pow_le_pow_right (by decide) hle
  have := toNat_of_isSext_cases hpos hle ha
  have := toNat_of_isSext_cases hpos hle hb
  have := a.isLt
  have := b.isLt
  generalize a.toNat % 2 ^ w = x at *
  generalize b.toNat % 2 ^ w = y at *
  generalize 2 ^ w = p at *
  simp only [hones]
  split_ifs with h
  · rw [decide_eq_false_iff_not]
    omega
  · rw [decide_eq_decide]
    omega

/-- SUB's V is the overflow of the `w`-bit difference. -/
theorem subOverflow_at_width (hpos : 0 < w) (hle : w ≤ 64) (ha : IsSext w a a) (hb : IsSext w b b) (hc : c ≤ 1)
    (hv : (v.toNat : Int) = (a.toNat - b.toNat - c : Int) % 2 ^ 64) (hr : IsSext w v r) :
    (a.msb != b.msb && r.msb != a.msb) =
      decide (¬(-2 ^ (w - 1) ≤ a.toInt - b.toInt - c ∧ a.toInt - b.toInt - c < 2 ^ (w - 1))) := by
  obtain ⟨halow, hahigh⟩ := toInt_bounds_of_isSext hpos hle ha
  obtain ⟨hblow, hbhigh⟩ := toInt_bounds_of_isSext hpos hle hb
  obtain ⟨hrlow, hrhigh⟩ := toInt_bounds_of_isSext hpos hle hr
  have hhalf := two_pow_pred_add_self hpos
  have hdiff : (v.toNat : Int) = (a.toInt - b.toInt - c) % 2 ^ 64 := by
    rw [hv, BitVec.toInt_eq_toNat_cond, BitVec.toInt_eq_toNat_cond]
    split_ifs <;> omega
  have hwrap := toInt_of_isSext_wrapped hpos hle hr hdiff (by omega) (by omega)
  rw [BitVec.msb_eq_toInt, BitVec.msb_eq_toInt, BitVec.msb_eq_toInt, Bool.eq_iff_iff]
  simp only [Bool.and_eq_true, bne_iff_ne, ne_eq, decide_eq_decide, decide_eq_true_eq]
  generalize (2 : Int) ^ w = p at *
  generalize (2 : Int) ^ (w - 1) = h at *
  omega

/-- SUB's C says that the low `w` bits need no borrow, but for the operand of ones with a borrow-in. -/
theorem subCarry_at_width (hpos : 0 < w) (hle : w ≤ 64) (ha : IsSext w a a) (hb : IsSext w b b) (hc : c ≤ 1)
    (hv : (v.toNat : Int) = (a.toNat - b.toNat - c : Int) % 2 ^ 64) :
    decide (v.toNat ≤ a.toNat) = if c = 1 ∧ b = 0xFFFFFFFFFFFFFFFF#64 then true
      else decide (b.toNat % 2 ^ w + c ≤ a.toNat % 2 ^ w) := by
  have hones : b = 0xFFFFFFFFFFFFFFFF#64 ↔ b.toNat = 2 ^ 64 - 1 := by simp [← BitVec.toNat_inj]
  have hwrap : v.toNat + b.toNat + c = a.toNat ∨ v.toNat + b.toNat + c = a.toNat + 2 ^ 64 := by omega
  have hhalf := Nat.two_pow_pred_add_two_pow_pred hpos
  have hpow : 2 ^ w ≤ 2 ^ 64 := Nat.pow_le_pow_right (by decide) hle
  have := toNat_of_isSext_cases hpos hle ha
  have := toNat_of_isSext_cases hpos hle hb
  have := a.isLt
  have := b.isLt
  generalize a.toNat % 2 ^ w = x at *
  generalize b.toNat % 2 ^ w = y at *
  generalize 2 ^ w = p at *
  simp only [hones]
  split_ifs with h
  · rw [decide_eq_true_iff]
    omega
  · rw [decide_eq_decide]
    omega

theorem carryIn_le_one {ci : BitVec 2} (h : ci ≠ 3#2) (s : State) : Spec.carryIn ci s ≤ 1 := by
  obtain ⟨cin, -, hcin⟩ := carryIn_spec h s
  exact hcin ▸ cin.toNat_le

theorem borrowIn_le_one {ci : BitVec 2} (h : ci ≠ 3#2) (s : State) : Spec.borrowIn ci s ≤ 1 := by
  obtain ⟨cin, -, hcin⟩ := carryIn_spec h s
  exact borrowIn_spec hcin ▸ (s.borrowIn cin).toNat_le

end

/-- Settles O23: C and V as O18 and O19 give them, read at the current width. -/
theorem carryAndOverflowAgreeAtTheCurrentWidth : Obligations.CarryAndOverflowAgreeAtTheCurrentWidth := by
  intro ra rb ci s hci ha hb
  obtain ⟨-, hadd⟩ := addGivesSumFlagsAndFrame
  obtain ⟨-, hsub⟩ := subGivesDifferenceFlagsAndFrame
  obtain ⟨-, t, sum, ⟨ht, -, -⟩, hsum, hext_t, hc_t, hv_t, -⟩ := hadd ra rb ci s hci
  obtain ⟨-, u, diff, ⟨hu, -, -⟩, hdiff, hext_u, hc_u, hv_u, -⟩ := hsub ra rb ci s hci
  have hpos := widthNow_pos s
  have hle := widthNow_le s
  have hcin := carryIn_le_one hci s
  have hbin := borrowIn_le_one hci s
  exact ⟨t, u, ht, hu, hc_t.trans (addCarry_at_width hpos hle ha hb hcin hsum),
    hv_t.trans (addOverflow_at_width hpos hle ha hb hcin hsum hext_t),
    hc_u.trans (subCarry_at_width hpos hle ha hb hbin hdiff),
    hv_u.trans (subOverflow_at_width hpos hle ha hb hbin hdiff hext_u)⟩

/-! ## SAR as a floor (R126) -/

/-- One turn of R126's loop on a negative value is a signed shift by one place. -/
theorem shiftInOne_eq_sshiftRight {a : BitVec 64} (h : a.msb = true) :
    a >>> 1 ||| 0x8000000000000000#64 = a.sshiftRight 1 := by
  refine BitVec.eq_of_getLsbD_eq fun i hi => ?_
  have htop : (0x8000000000000000#64).getLsbD i = decide (i = 63) := by
    revert i
    decide
  rw [BitVec.getLsbD_or, htop, BitVec.getLsbD_ushiftRight, BitVec.getLsbD_sshiftRight, h]
  by_cases h63 : i = 63
  · subst h63
    simp
  · simp [h63, show 1 + i < 64 by omega, show ¬64 ≤ i by omega]

theorem shiftInOnes_eq_sshiftRight (n : Nat) {a : BitVec 64} (h : a.msb = true) :
    shiftInOnes n a = a.sshiftRight n := by
  induction n generalizing a with
  | zero => simp [shiftInOnes]
  | succ n ih =>
    have hmsb : (a.sshiftRight 1).msb = true := by rw [BitVec.msb_sshiftRight, h]
    rw [shiftInOnes, shiftInOne_eq_sshiftRight h, ih hmsb, ← BitVec.sshiftRight_add, Nat.add_comm]

theorem sshiftRight_eq_min (a : BitVec 64) (n : Nat) : a.sshiftRight n = a.sshiftRight (min n 63) := by
  by_cases hn : n ≤ 63
  · rw [min_eq_left hn]
  · refine BitVec.eq_of_getLsbD_eq fun i hi => ?_
    rw [min_eq_right (by omega), BitVec.getLsbD_sshiftRight, BitVec.getLsbD_sshiftRight, if_neg (by omega)]
    by_cases hzero : i = 0
    · simp [hzero, BitVec.msb_eq_getLsbD_last]
    · rw [if_neg (by omega)]

/-- SAR's shifted value is the signed shift, by any count. -/
theorem shiftRightSigned64_eq_sshiftRight (a : BitVec 64) (n : Nat) :
    shiftRightSigned64 a n = a.sshiftRight n := by
  unfold shiftRightSigned64
  split_ifs with hneg hbig
  · have hmsb : a.sshiftRight n = BitVec.allOnes 64 := by
      refine BitVec.eq_of_getLsbD_eq fun i hi => ?_
      rw [BitVec.getLsbD_sshiftRight, if_neg (by omega), hneg, BitVec.getLsbD_allOnes]
      simp [hi, Nat.not_le.mpr hi]
    rw [hmsb]
    rfl
  · exact shiftInOnes_eq_sshiftRight n hneg
  · rw [BitVec.sshiftRight_eq_of_msb_false (by simpa using hneg)]
    refine BitVec.eq_of_toNat_eq ?_
    rw [shiftRight64_toNat, BitVec.toNat_ushiftRight, Nat.shiftRight_eq_div_pow]

/-- The signed shift is the floor of the quotient, and past 63 places nothing is left but the sign. -/
theorem toInt_shiftRightSigned64 (a : BitVec 64) (n : Nat) :
    (shiftRightSigned64 a n).toInt = Int.fdiv a.toInt (2 ^ min n 63) := by
  rw [shiftRightSigned64_eq_sshiftRight, sshiftRight_eq_min, BitVec.toInt_sshiftRight, Int.shiftRight_eq_div_pow,
    Int.fdiv_eq_ediv_of_nonneg _ (by positivity)]
  norm_cast

/-- Settles O26: the shifted value is `toInt_shiftRightSigned64`'s; the parameter decides whether it is extended. -/
theorem arithmeticShiftIsTheFloorOfTheQuotient : Obligations.ArithmeticShiftIsTheFloorOfTheQuotient := by
  intro ra s
  obtain ⟨t, ht, hx, hz, hn, hframe⟩ := finishZN_spec s ra
    (if s.params.sarFinalSext then sext s.operandWidth (shiftRightSigned64 (s.x ra) s.shiftCount)
      else shiftRightSigned64 (s.x ra) s.shiftCount)
  refine ⟨decode_rowRA (op := 0x18#8) ra rfl, t, _, ht, toInt_shiftRightSigned64 (s.x ra) s.shiftCount, ?_, hz, hn,
    hframe⟩
  rw [hx]
  split_ifs
  · exact sext_operandWidth_isSext s _
  · rfl

/-! ## The product (R133) -/

/-- The two words of a product of two registers under WIDE, put together. -/
theorem wideProduct_eq {p : Int} {lo hi : BitVec 64} (h : Spec.ProductWords .wide p lo hi) (hp : p.natAbs ≤ 2 ^ 126) :
    hi.toInt * 2 ^ 64 + lo.toNat = p := by
  have := lo.isLt
  have := hi.isLt
  unfold Spec.ProductWords at h
  split_ifs at h with hfits hneg hpos
  · obtain ⟨hlo, rfl⟩ := h
    rw [BitVec.toInt_eq_toNat_cond] at hlo
    rw [show (0xFFFFFFFFFFFFFFFF#64).toInt = -1 from rfl]
    split_ifs at hlo <;> omega
  · obtain ⟨hlo, rfl⟩ := h
    rw [BitVec.toInt_eq_toNat_cond] at hlo
    rw [show (0#64).toInt = 0 from rfl]
    split_ifs at hlo <;> omega
  · rw [BitVec.toInt_eq_toNat_cond]
    split_ifs <;> omega
  · dsimp only at h
    rw [BitVec.toInt_eq_toNat_cond]
    split_ifs <;> omega

theorem natAbs_toInt_le_of_width {w : Nat} (hw : w ≤ 32) (x : BitVec w) : x.toInt.natAbs ≤ 2 ^ 31 := by
  have hpow : 2 ^ w ≤ 2 ^ 32 := Nat.pow_le_pow_right (by decide) hw
  have := x.isLt
  rw [BitVec.toInt_eq_toNat_cond]
  split_ifs <;> omega

/-- Settles O29: the words of O28 are the product in two parts; below 64 bits the product fits one register. -/
theorem multiplyIsExact : Obligations.MultiplyIsExact := by
  intro ra rb s
  obtain ⟨-, t, ⟨ht, -, -⟩, hspec⟩ := multiplyGivesProductFlagsAndFrame ra rb s
  refine ⟨fun h64 hsplit hne => ?_, fun hw ha hb => ?_⟩
  · rw [if_neg (by omega), hsplit] at hspec
    obtain ⟨lo, hi, hwords, htwo, hz, hn, -⟩ := hspec
    obtain ⟨hra, hrb⟩ : t.x ra = lo ∧ t.x rb = hi := by simpa [Spec.TwoResults, hne] using htwo
    have hp : ((s.x ra).toInt * (s.x rb).toInt).natAbs ≤ 2 ^ 126 := by
      rw [Int.natAbs_mul]
      exact (Nat.mul_le_mul (toInt_natAbs_le (s.x ra)) (toInt_natAbs_le (s.x rb))).trans_eq (by decide)
    have hwhole := wideProduct_eq hwords hp
    have hlo := lo.isLt
    refine ⟨t, ht, by rw [hra, hrb, hwhole], ?_, ?_⟩
    · rw [hn, BitVec.msb_eq_toInt, decide_eq_decide]
      omega
    · have hlo_zero : lo = 0#64 ↔ lo.toNat = 0 := by simp [← BitVec.toNat_inj]
      have hhi_zero : hi = 0#64 ↔ hi.toInt = 0 := by simp [← BitVec.toInt_inj]
      rw [hz, Bool.eq_iff_iff, Bool.and_eq_true, beq_iff_eq, beq_iff_eq, hlo_zero, hhi_zero, decide_eq_true_iff]
      omega
  · rw [if_pos hw] at hspec
    obtain ⟨hlow, -⟩ := hspec
    have hpos := widthNow_pos s
    have hp : ((s.x ra).toInt * (s.x rb).toInt).natAbs ≤ 2 ^ 62 := by
      rw [Int.natAbs_mul, ← toInt_of_isSext hpos (by omega) ha, ← toInt_of_isSext hpos (by omega) hb]
      exact (Nat.mul_le_mul (natAbs_toInt_le_of_width hw _) (natAbs_toInt_le_of_width hw _)).trans_eq (by decide)
    refine ⟨t, ht, ?_⟩
    rw [BitVec.toInt_eq_toNat_cond]
    split_ifs <;> omega

/-! ## The quotient (R132) -/

/-- Settles O31: the quotient is the truncated one, whose remainder has these laws. -/
theorem divisionLaws : Obligations.DivisionLaws := by
  intro ra rb s hne hb
  obtain ⟨-, -, hdiv⟩ := divideGivesQuotientRemainderAndFlags ra rb s
  obtain ⟨t, quot, rem, ⟨ht, -, -⟩, hqr, htwo, hz, -⟩ := hdiv hb
  obtain ⟨hra, hrb⟩ : t.x ra = quot ∧ t.x rb = rem := by simpa [Spec.TwoResults, hne] using htwo
  refine ⟨t, ht, ?_⟩
  rw [hra, hrb]
  split_ifs at hqr ⊢ with hover
  · exact hqr
  · obtain ⟨hquot, hrem⟩ := hqr
    have hmod : rem.toInt = (s.x ra).toInt.tmod (s.x rb).toInt := by
      rw [hrem, hquot, Int.tmod_def, mul_comm]
    have hbint : (s.x rb).toInt ≠ 0 := fun h => hb (BitVec.eq_of_toInt_eq (h.trans rfl))
    refine ⟨by omega, ?_, ?_, fun ha => ?_⟩
    · rw [hmod, Int.natAbs_tmod]
      exact Nat.mod_lt _ (Int.natAbs_pos.mpr hbint)
    · rw [hmod, Int.sign_tmod]
      split_ifs with hdvd
      · exact .inl (Int.tmod_eq_zero_of_dvd hdvd)
      · exact .inr rfl
    · rw [ha, Int.zero_tdiv] at hquot
      exact ⟨hquot, by rw [hmod, ha, Int.zero_tmod], by rw [hz, hquot]; rfl⟩

/-! ## Forms that no word decodes to (R68, R70) -/

/-- Settles O56: the decoder rejects the field, and the command's own check of it raises the error. -/
theorem formsNoWordDecodesToRaiseIllegalCommand : Obligations.FormsNoWordDecodesToRaiseIllegalCommand := by
  refine fun s => ⟨fun ra rb => ⟨⟨decode_rowRARBCI_illegal (op := 0x10#8) ra rb rfl, _, rfl, rfl⟩,
    ⟨decode_rowRARBCI_illegal (op := 0x11#8) ra rb rfl, _, rfl, rfl⟩⟩, fun f hf =>
    ⟨⟨decode_rowF_illegal (op := 0x50#8) rfl hf, s.drive 0#64 .illegalCommand, ?_, rfl⟩,
      ⟨decode_rowF_illegal (op := 0x51#8) rfl hf, s.drive 0#64 .illegalCommand, ?_, rfl⟩⟩⟩
  · change execRfrd f s = _
    rw [execRfrd, sprNumbered_none f hf]
    rfl
  · change execRfwr f s = _
    rw [execRfwr, sprNumbered_none f hf]
    rfl

end Sys2Proof.Machine
end
